-- ==== Sys2Proof/Word.lean ====
section
/-! DEFINITION. The widths the spec fixes: bytes of the device bus, 16-bit counts, 32-bit operand fields and the
72-bit operation word (00_scope.md R9, 30_encoding.md R70, R72). -/

namespace Sys2Proof

/-- u8: a controller register address or the byte written to it (30_encoding.md R72). -/
abbrev Byte := BitVec 8

/-- u16: an on or off count of a channel (30_encoding.md R81). -/
abbrev Count := BitVec 16

/-- One operand field, `a` or `b`, of an operation word (30_encoding.md R70). -/
abbrev Operand := BitVec 32

/-- The operation word, `opc[71:64] a[63:32] b[31:0]` (30_encoding.md R70). -/
abbrev OpWord := BitVec 72

end Sys2Proof
end

