-- ==== Sys2Proof/Config.lean ====
section
/-! DEFINITION. The configuration parameters of 00_scope.md R7, one field per row, and the free values: what the spec
leaves to the bus, to the attached controller or to no rule. The values this hardware takes are
`Config.hardware` in Machine/Params.lean. -/

namespace Sys2Proof

/-- A rational parameter, `num / den` (00_scope.md R7, STEER_SCALE). -/
structure Ratio where
  num : Int
  den : Nat
  deriving DecidableEq, Repr

/-- An (on, off) pair of counts (00_scope.md R7, FULL_ON and FULL_OFF). -/
structure CountPair where
  on : Nat
  off : Nat
  deriving DecidableEq, Repr

/-- 00_scope.md R7, every row. None is state: no operation changes one. Where R7 gives a number no type, it is a natural number:
DESIGN CHOICE (log 23). -/
structure Config where
  /-- TICK_W: width in bits of a capture timestamp. -/
  tickW : Nat
  /-- MAX_TICK: largest value the capture counter holds. -/
  maxTick : Nat
  /-- TICK_US: capture tick period in microseconds; used by no rule's values (40_ranging.md R109). That it is a whole number of
  them is the model's choice: DESIGN CHOICE (log 23). -/
  tickUs : Nat
  /-- US_PER_CM: divisor from elapsed ticks to centimetres. -/
  usPerCm : Nat
  /-- DIST_W: width in bits of distance_cm. -/
  distW : Nat
  /-- CMD_W: width in bits of a commanded steer or throttle operand. -/
  cmdW : Nat
  /-- CMD_LIMIT: clamp bound for steer and throttle. -/
  cmdLimit : Nat
  /-- STEER_CENTER: pulse-width value at angle 0. -/
  steerCenter : Nat
  /-- STEER_SCALE: slope of the steering map. -/
  steerScale : Ratio
  /-- STEER_NOM_LEFT: used by no rule (90_conflicts.md C1). -/
  steerNomLeft : Nat
  /-- STEER_NOM_RIGHT: used by no rule (90_conflicts.md C1). -/
  steerNomRight : Nat
  /-- DUTY_MAX: full-scale throttle duty. -/
  dutyMax : Nat
  /-- OSC_HZ: PWM controller oscillator frequency of the prescale formula. -/
  oscHz : Nat
  /-- PWM_STEPS: counts per PWM cycle. -/
  pwmSteps : Nat
  /-- FREQ_HZ: target PWM frequency. -/
  freqHz : Nat
  /-- FAILSAFE_CM: exclusive upper bound of the failsafe distance interval. -/
  failsafeCm : Nat
  /-- N_CH: number of PWM controller channels. -/
  nCh : Nat
  /-- CH_STEER: channel of the steering servo (OPEN in the spec). -/
  chSteer : Nat
  /-- CH_PWM: channel of the throttle duty (OPEN in the spec). -/
  chPwm : Nat
  /-- CH_DIR_POS: direction channel fully on for positive speed (OPEN in the spec). -/
  chDirPos : Nat
  /-- CH_DIR_NEG: direction channel fully on for negative speed (OPEN in the spec). -/
  chDirNeg : Nat
  /-- REG_MODE1: register with the sleep, restart and address-response bits. -/
  regMode1 : Nat
  /-- REG_MODE2: register with the output-driver mode. -/
  regMode2 : Nat
  /-- REG_LED_BASE: register address of channel 0's on-low byte. -/
  regLedBase : Nat
  /-- REG_ALL_BASE: register address of the all-channel on-low byte. -/
  regAllBase : Nat
  /-- REG_PRESCALE: register address of the prescale byte. -/
  regPrescale : Nat
  /-- MODE1_SLEEP: mask of the sleep bit in MODE1. -/
  mode1Sleep : Byte
  /-- MODE1_RESTART: mask of the restart bit in MODE1. -/
  mode1Restart : Byte
  /-- MODE1_INIT: MODE1 value giving the address-response mode. -/
  mode1Init : Byte
  /-- MODE2_INIT: MODE2 value giving the output-driver mode. -/
  mode2Init : Byte
  /-- FULL_ON: counts that drive a channel fully on. -/
  fullOn : CountPair
  /-- FULL_OFF: counts that drive a channel fully off. -/
  fullOff : CountPair
  /-- DEV_ADDR: bus address of the PWM controller; `none` while the parameter is left OPEN. No rule's value
  depends on it (00_scope.md R7). -/
  devAddr : Option Nat
  /-- BUS_TIMEOUT_MS: per-transaction bus timeout; `none` while the parameter is left OPEN (log 3). That a bound one is a
  whole number of milliseconds is the model's choice: DESIGN CHOICE (log 23). A model of the block models no time
  (70_reset_and_hazards.md R245). -/
  busTimeoutMs : Option Nat
  deriving DecidableEq, Repr

/-- The outcome of one bus write (20_memory.md R52, 60_exceptions.md R206). -/
inductive BusOutcome where
  | ok
  | timeout
  deriving DecidableEq, Repr, Inhabited

/-- FREE VALUE (log 5): the outcome of the n-th bus write that the state does not already list, "drawn per write under
no law" (93_implementation_defined.md I8). -/
opaque Config.busDraw : Nat → BusOutcome

/-- FREE VALUE (log 6): what the controller's register holds while no write of this block has reached it, "any value
(u8 per register)" (93_implementation_defined.md I9, 10_state.md R33). -/
opaque Config.deviceByte : Byte → Byte

/-- FREE VALUE (log 10): the distance word where the quotient does not fit DIST_W bits, a case no rule states (R103: "The
value always fits DIST_W bits"). -/
opaque Config.unstatedDistance : Nat → Nat

/-- FREE VALUE (log 11): the 16-bit count where the computed value is no u16, a case no rule states (41_actuator.md R123:
"on and off each in [0, 4096]"). -/
opaque Config.unstatedCount : Int → Count

end Sys2Proof
end

