-- ==== Sys2Proof/Machine/Operands.lean ====
section
/-! DEFINITION. The primitives of 00_scope.md R10, the operand forms of 30_encoding.md R75, and the pure functions of
ranging and of the actuator (40_ranging.md R101, R103; 41_actuator.md R121, R122, R125, R127). -/

namespace Sys2Proof.Machine

/-- clamp(v, lo, hi) (00_scope.md R10). -/
def clamp (v lo hi : Int) : Int :=
  if v < lo then lo else if hi < v then hi else v

/-- round_haz(n/d): the nearest integer, a tie going away from zero (00_scope.md R10, the closed form). -/
def roundHaz (n : Int) (d : Nat) : Int :=
  n.sign * ((2 * n.natAbs + d) / (2 * d) : Nat)

/-- lo8(v) = v[7:0] (00_scope.md R10). -/
def lo8 (v : Count) : Byte := v.extractLsb' 0 8

/-- hi8(v) = v[15:8] (00_scope.md R10). -/
def hi8 (v : Count) : Byte := v.extractLsb' 8 8

/-- A register address parameter as the u8 a transaction carries (30_encoding.md R72; 00_scope.md R8 makes it fit). -/
def regAddr (n : Nat) : Byte := BitVec.ofNat 8 n

/-- A computed count as the u16 a channel update takes (30_encoding.md R81); where it is no u16, a free value (log 11). -/
def count16 (v : Int) : Count :=
  if 0 ≤ v ∧ v < 65536 then BitVec.ofNat 16 v.toNat else Config.unstatedCount v

/-- The signed value of an operand field, read as s32 two's complement (30_encoding.md R75). -/
def signedValue (v : Operand) : Int := v.toInt

/-- tick = zext_32(b[TICK_W-1:0]) (30_encoding.md R75). -/
def tickOperand (c : Config) (b : Operand) : Operand := BitVec.ofNat 32 (b.toNat % 2 ^ c.tickW)

/-- b[31:TICK_W] is zero: the tick field holds the whole value (30_encoding.md R71, format T). -/
def tickFits (c : Config) (b : Operand) : Bool := b.toNat < 2 ^ c.tickW

/-- b <= MAX_TICK (30_encoding.md R74). -/
def tickInRange (c : Config) (b : Operand) : Bool := b.toNat ≤ c.maxTick

/-- A signed operand lies in [-2^(CMD_W-1), 2^(CMD_W-1)-1] (30_encoding.md R75, R76). -/
def commandInRange (c : Config) (v : Operand) : Bool :=
  (-(2 ^ (c.cmdW - 1) : Nat) : Int) ≤ signedValue v && signedValue v < (2 ^ (c.cmdW - 1) : Nat)

/-- Elapsed(r, f), on integers without wrap (40_ranging.md R101). -/
def elapsed (c : Config) (r f : Nat) : Nat :=
  if r < f then f - r else (c.maxTick + 1 - r) + f

/-- distance_cm = zext_DIST_W(e div US_PER_CM) (40_ranging.md R102, R103); where the quotient does not fit DIST_W bits, a
free value of that width (log 10). -/
def ticksToCm (c : Config) (e : Nat) : Nat :=
  if e / c.usPerCm < 2 ^ c.distW then e / c.usPerCm
  else Config.unstatedDistance (e / c.usPerCm) % 2 ^ c.distW

/-- RegOnL(ch) (41_actuator.md R121); RegOnH, RegOffL and RegOffH are the next three addresses. -/
def regOnL (c : Config) (ch : Nat) : Nat := c.regLedBase + 4 * ch

/-- The numerator of STEER_SCALE * a, over STEER_SCALE's denominator, rounded (41_actuator.md R125). -/
def scaledSteer (c : Config) (a : Int) : Int := roundHaz (a * c.steerScale.num) c.steerScale.den

/-- SteerPwm(angle) (41_actuator.md R125; the literal formula, 90_conflicts.md C1). -/
def steerPwm (c : Config) (angle : Int) : Int :=
  c.steerCenter - scaledSteer c (clamp angle (-c.cmdLimit) c.cmdLimit)

/-- ThrottleDuty(speed) (41_actuator.md R127). -/
def throttleDuty (c : Config) (speed : Int) : Nat :=
  (clamp speed (-c.cmdLimit) c.cmdLimit).natAbs * c.dutyMax / c.cmdLimit

/-- PRESCALE_VAL (41_actuator.md R122, the closed form). -/
def prescaleVal (c : Config) : Int :=
  ((2 * c.oscHz + c.pwmSteps * c.freqHz) / (2 * c.pwmSteps * c.freqHz) : Nat) - 1

end Sys2Proof.Machine
end

