-- ==== Sys2Proof/Machine/Params.lean ====
section
/-! DEFINITION. When a configuration is well-formed (00_scope.md R8), and the configuration this hardware takes (00_scope.md
R7, the defaults). -/

namespace Sys2Proof

/-- "Every register address fits in 8 bits, and every channel's four register addresses fit in 8 bits" (00_scope.md R8). -/
abbrev Config.addressesFit (c : Config) : Prop :=
  c.regMode1 < 256 ∧ c.regMode2 < 256 ∧ c.regLedBase < 256 ∧ c.regAllBase + 3 < 256 ∧ c.regPrescale < 256 ∧
    ∀ ch, ch < c.nCh → Machine.regOnL c ch + 3 < 256

/-- "CH_STEER, CH_PWM, CH_DIR_POS and CH_DIR_NEG are pairwise distinct and each lies in [0, N_CH-1]" (00_scope.md R8). -/
abbrev Config.channelsDistinct (c : Config) : Prop :=
  c.chSteer ≠ c.chPwm ∧ c.chSteer ≠ c.chDirPos ∧ c.chSteer ≠ c.chDirNeg ∧ c.chPwm ≠ c.chDirPos ∧
    c.chPwm ≠ c.chDirNeg ∧ c.chDirPos ≠ c.chDirNeg ∧
    c.chSteer < c.nCh ∧ c.chPwm < c.nCh ∧ c.chDirPos < c.nCh ∧ c.chDirNeg < c.nCh

/-- "every steering value fits 12 bits" (00_scope.md R8); that STEER_SCALE is a rational gives its denominator (log 12). -/
abbrev Config.steeringFits (c : Config) : Prop :=
  1 ≤ c.steerScale.den ∧ c.steerCenter + Machine.scaledSteer c c.cmdLimit ≤ 4095 ∧
    0 ≤ c.steerCenter - Machine.scaledSteer c c.cmdLimit

/-- 00_scope.md R8: every clause. -/
abbrev Config.WellFormed (c : Config) : Prop :=
  c.maxTick = 2 ^ c.tickW - 1 ∧
  1 ≤ c.usPerCm ∧
  (1 ≤ c.cmdLimit ∧ c.cmdLimit < 2 ^ (c.cmdW - 1)) ∧
  (1 ≤ c.freqHz ∧ 0 ≤ Machine.prescaleVal c ∧ Machine.prescaleVal c ≤ 255) ∧
  c.channelsDistinct ∧
  c.addressesFit ∧
  c.steeringFits

/-- The defaults of 00_scope.md R7, with the four OPEN channel parameters left to the argument. -/
def Config.withChannels (steer pwm dirPos dirNeg : Nat) : Config where
  tickW := 16
  maxTick := 65535
  tickUs := 1
  usPerCm := 58
  distW := 32
  cmdW := 32
  cmdLimit := 100
  steerCenter := 430
  steerScale := { num := 9, den := 10 }
  steerNomLeft := 580
  steerNomRight := 280
  dutyMax := 4095
  oscHz := 25000000
  pwmSteps := 4096
  freqHz := 60
  failsafeCm := 10
  nCh := 16
  chSteer := steer
  chPwm := pwm
  chDirPos := dirPos
  chDirNeg := dirNeg
  regMode1 := 0x00
  regMode2 := 0x01
  regLedBase := 0x06
  regAllBase := 0xFA
  regPrescale := 0xFE
  mode1Sleep := 0x10
  mode1Restart := 0x80
  mode1Init := 0x01
  mode2Init := 0x04
  fullOn := { on := 4096, off := 0 }
  fullOff := { on := 0, off := 4096 }
  devAddr := none
  busTimeoutMs := none

/-- The configuration the model starts with: the defaults, with the channels bound as spec/95_test_vectors.md binds them
"for illustration only". DESIGN CHOICE, unsafe (log 2). -/
def Config.hardware : Config := Config.withChannels 0 1 2 3

end Sys2Proof
end

