-- ==== Sys2Proof/Syntax.lean ====
section
/-! DEFINITION. The operations: one constructor of `Instr` per row of spec/opcode_table.json (30_encoding.md R73), and
the names of the operation codes and formats (30_encoding.md R71, R73). -/

namespace Sys2Proof

/-- An operation with its operands as the word holds them (30_encoding.md R71, R75): the tick zero-extended to 32 bits,
the signed operands as the bits read as s32. -/
inductive Instr where
  /-- ECHO_CAPTURE: one captured edge (40_ranging.md R102). -/
  | echoCapture (tick : Operand)
  /-- DIST_READ: read the published distance (40_ranging.md R105). -/
  | distRead
  /-- ACT_INIT: bring up the controller and program its frequency (41_actuator.md R124). -/
  | actInit
  /-- SET_STEER: write the steering channel (41_actuator.md R126). -/
  | setSteer (angle : Operand)
  /-- SET_THROTTLE: set the motor's direction and duty (41_actuator.md R128). -/
  | setThrottle (speed : Operand)
  /-- DRIVE: apply the failsafe and drive both actuators (42_drive_failsafe.md R160). -/
  | drive (throttle steer : Operand)
  deriving DecidableEq, Repr

/-- The six rows of the operation map (30_encoding.md R73). -/
inductive OpName where
  | echoCapture | distRead | actInit | setSteer | setThrottle | drive
  deriving DecidableEq, Repr

/-- The four formats (30_encoding.md R71). -/
inductive Format where
  /-- no operand -/
  | n
  /-- tick -/
  | t
  /-- one signed operand -/
  | s
  /-- two signed operands -/
  | d
  deriving DecidableEq, Repr

/-- Why a word is illegal (30_encoding.md R76), in the order in which reasons are reported (60_exceptions.md R203). -/
inductive IllegalReason where
  /-- BAD_OPC -/
  | badOpc
  /-- NONZERO_RESERVED -/
  | nonzeroReserved
  /-- TICK_RANGE -/
  | tickRange
  /-- OPERAND_RANGE -/
  | operandRange
  deriving DecidableEq, Repr

/-- The row of the operation map an operation belongs to. -/
def Instr.name : Instr → OpName
  | .echoCapture _ => .echoCapture
  | .distRead => .distRead
  | .actInit => .actInit
  | .setSteer _ => .setSteer
  | .setThrottle _ => .setThrottle
  | .drive _ _ => .drive

end Sys2Proof
end

