-- ==== Sys2Proof/WellFormed.lean ====
section
/-! DEFINITION. When an operation's operands are ones a word can carry under a configuration (30_encoding.md R71, R74,
R75, R76). -/

namespace Sys2Proof

/-- The tick fits its field and lies in [0, MAX_TICK]; a signed operand lies in the sCMD_W range. -/
def Instr.wellFormed (c : Config) : Instr → Bool
  | .echoCapture tick => Machine.tickFits c tick && Machine.tickInRange c tick
  | .distRead => true
  | .actInit => true
  | .setSteer angle => Machine.commandInRange c angle
  | .setThrottle speed => Machine.commandInRange c speed
  | .drive throttle steer => Machine.commandInRange c throttle && Machine.commandInRange c steer

end Sys2Proof
end

