-- ==== Sys2Proof/Decode.lean ====
section
/-! DEFINITION. The decoder of 30_encoding.md R74, total on 72-bit words, with the reasons of R76 in the order of
60_exceptions.md R203; and the encoder, from the same formats and codes. -/

namespace Sys2Proof

/-- opc, bits 71:64 (30_encoding.md R70). -/
def opcField (w : OpWord) : Byte := w.extractLsb' 64 8

/-- a, bits 63:32 (30_encoding.md R70). -/
def aField (w : OpWord) : Operand := w.extractLsb' 32 32

/-- b, bits 31:0 (30_encoding.md R70). -/
def bField (w : OpWord) : Operand := w.extractLsb' 0 32

/-- opc ++ a ++ b (30_encoding.md R70). -/
def packWord (opc : Byte) (a b : Operand) : OpWord := opc ++ a ++ b

/-- The operation codes (30_encoding.md R73). -/
def opcodeOf : OpName → Byte
  | .echoCapture => 0x01
  | .distRead => 0x02
  | .actInit => 0x03
  | .setSteer => 0x04
  | .setThrottle => 0x05
  | .drive => 0x06

/-- The row an operation code selects; every other code is BAD_OPC (30_encoding.md R73, R76). -/
def opNameOf (opc : Byte) : Option OpName :=
  if opc = 0x01 then some .echoCapture
  else if opc = 0x02 then some .distRead
  else if opc = 0x03 then some .actInit
  else if opc = 0x04 then some .setSteer
  else if opc = 0x05 then some .setThrottle
  else if opc = 0x06 then some .drive
  else none

/-- The format of each row (30_encoding.md R73). -/
def formatOf : OpName → Format
  | .echoCapture => .t
  | .distRead => .n
  | .actInit => .n
  | .setSteer => .s
  | .setThrottle => .s
  | .drive => .d

/-- Every must-be-zero bit of the format is 0 (30_encoding.md R71). -/
def reservedZero (c : Config) (f : Format) (a b : Operand) : Bool :=
  match f with
  | .n => a = 0 && b = 0
  | .t => a = 0 && Machine.tickFits c b
  | .s => a = 0
  | .d => true

/-- "for ECHO_CAPTURE, b <= MAX_TICK" (30_encoding.md R74). -/
def tickOk (c : Config) (f : Format) (b : Operand) : Bool :=
  match f with
  | .t => Machine.tickInRange c b
  | .n | .s | .d => true

/-- The signed operands of the format lie in the sCMD_W range (30_encoding.md R75, R76). -/
def operandsOk (c : Config) (f : Format) (a b : Operand) : Bool :=
  match f with
  | .n | .t => true
  | .s => Machine.commandInRange c b
  | .d => Machine.commandInRange c a && Machine.commandInRange c b

/-- The operation a row makes of the operand fields (30_encoding.md R71, R75). -/
def assembleOperands (c : Config) (a b : Operand) : OpName → Instr
  | .echoCapture => .echoCapture (Machine.tickOperand c b)
  | .distRead => .distRead
  | .actInit => .actInit
  | .setSteer => .setSteer b
  | .setThrottle => .setThrottle b
  | .drive => .drive a b

/-- The decoder: an operation, or the first reason that applies (30_encoding.md R74, R76; 60_exceptions.md R203). -/
def decode (c : Config) (w : OpWord) : Except IllegalReason Instr :=
  match opNameOf (opcField w) with
  | none => .error .badOpc
  | some op =>
    if reservedZero c (formatOf op) (aField w) (bField w) then
      if tickOk c (formatOf op) (bField w) then
        if operandsOk c (formatOf op) (aField w) (bField w) then
          .ok (assembleOperands c (aField w) (bField w) op)
        else .error .operandRange
      else .error .tickRange
    else .error .nonzeroReserved

/-- The operand fields of an operation's word (30_encoding.md R71): the unused ones are zero. -/
def operandFields : Instr → Operand × Operand
  | .echoCapture tick => (0, tick)
  | .distRead => (0, 0)
  | .actInit => (0, 0)
  | .setSteer angle => (0, angle)
  | .setThrottle speed => (0, speed)
  | .drive throttle steer => (throttle, steer)

/-- The word of a well-formed operation (30_encoding.md R70, R71, R73). -/
def encode (i : Instr) : OpWord :=
  packWord (opcodeOf i.name) (operandFields i).1 (operandFields i).2

/-- The low `nbits` bits of `w` as an operation word, the bits above them zero. -/
def tableWord (nbits w : Nat) : OpWord := BitVec.ofNat 72 (w % 2 ^ nbits)

/-- What the decoder reads from a word of spec/opcode_table.json. The operation word is one word of 72 bits, whole on the
`op` port (30_encoding.md R70), so the table's numbering of bits is the word's own. -/
def decodeTableWord (nbits w : Nat) : Option Instr :=
  match decode Config.hardware (tableWord nbits w) with
  | .ok i => some i
  | .error _ => none

end Sys2Proof
end

