-- ==== Sys2Proof/Machine/State.lean ====
section
/-! DEFINITION. The state of the block (10_state.md R22 to R27), its ports (R21), the controller's registers that its writes
reach (R33), the reasons a step can stop (60_exceptions.md R202, R203), and the state right after reset (R35). -/

namespace Sys2Proof.Machine

/-- rng.phase (10_state.md R22). -/
inductive Phase where
  | awaitingRise
  | awaitingFall
  deriving DecidableEq, Repr

/-- The agents that issue operations (10_state.md R20). -/
inductive Issuer where
  /-- the edge-capture timer's interrupt -/
  | captureSource
  | controlTask
  /-- "Any task may issue DIST_READ" -/
  | distanceReader
  deriving DecidableEq, Repr

/-- What the `op` and `rst` ports bring (10_state.md R21). -/
inductive PortEvent where
  /-- an operation word, performed whole -/
  | op (issuer : Issuer) (word : OpWord)
  /-- an operation word, with `rst` asserted after its bus write number `last`, the first being number 0
  (70_reset_and_hazards.md R231) -/
  | opCutByRst (issuer : Issuer) (word : OpWord) (last : Nat)
  /-- `rst` asserted between operations, or power-on (70_reset_and_hazards.md R230) -/
  | rst
  deriving DecidableEq, Repr

/-- One byte-register write, the pair (reg, val) (20_memory.md R52, 30_encoding.md R72). -/
structure BusWrite where
  reg : Byte
  val : Byte
  deriving DecidableEq, Repr

/-- A write the block emitted, with the outcome the bus gave it (92_eei_decisions.md D31). -/
structure BusTxn where
  write : BusWrite
  outcome : BusOutcome
  deriving DecidableEq, Repr

/-- The controller's byte registers that a write of this block has reached, as (address, byte) pairs. CANONICAL FORM:
`Memory.wf`. An address that is not listed reads as no value (log 6). -/
abbrev Memory := List Host.Cell

/-- Addresses strictly rising, each an 8-bit register address (20_memory.md R51). -/
abbrev Memory.wf (m : Memory) : Prop :=
  m.Pairwise (fun x y => x.1 < y.1) ∧ ∀ x ∈ m, x.1 < 256

/-- The machine. The five fields from `phase` to `modeCache` are all the state the block has (10_state.md R28). -/
structure State where
  /-- The configuration argument (00_scope.md R7). No operation changes it. -/
  cfg : Config
  /-- rng.phase (10_state.md R22). -/
  phase : Phase
  /-- rng.t_rise, uTICK_W (10_state.md R23). -/
  tRise : Nat
  /-- rng.t_fall, uTICK_W (10_state.md R23). -/
  tFall : Nat
  /-- rng.distance_cm, uDIST_W, the published distance word (10_state.md R24). -/
  distanceCm : Nat
  /-- act.mode_cache, u8 (10_state.md R27). -/
  modeCache : Byte
  /-- The `op` and `rst` ports: what the agents present, in the operation order, oldest first (20_memory.md R60). -/
  opQueue : List PortEvent
  /-- The `bus_outcome` port: outcomes already drawn for the coming writes, oldest first (60_exceptions.md R206). -/
  busOutcomes : List BusOutcome
  /-- The MODEL's own counter of bus outcomes drawn, which numbers the free ones (log 5). -/
  draws : Nat
  /-- The controller's registers, as the writes with outcome OK left them (60_exceptions.md R206). -/
  controller : Memory
  /-- The `bus` port: every write emitted, with its outcome, oldest first (00_scope.md R12, 92_eei_decisions.md D31). -/
  bus : List BusTxn
  /-- The `result` port: every value DIST_READ returned, oldest first (40_ranging.md R105). -/
  results : List Nat
  /-- The refused mark on the whole run (60_exceptions.md R203), set by `turn` in Machine/Run.lean (log 7). -/
  refusedMark : Bool
  deriving DecidableEq, Repr

/-- The block "has no fault outcome, because no source sentence makes it trap" (60_exceptions.md R202): no constructor. -/
inductive Fault where
  deriving DecidableEq, Repr

/-- Why a step is refused (60_exceptions.md R203). A refused operation changes no state and emits nothing. -/
inductive Refusal where
  /-- Raised by an arm of `exec` that has no meaning; every arm has one, so nothing raises it. Safe. -/
  | notModelled (mnemonic : String)
  /-- Raised by `performWord` and `performCutWord` for an operation word that does not decode (30_encoding.md R76), with
  the first reason that applies. Safe: no behaviour is given to it. -/
  | illegalWord (reason : IllegalReason)
  /-- Raised by every operation under an ill-formed configuration (00_scope.md R8). Safe: no behaviour is given to it. -/
  | illFormedConfig
  deriving DecidableEq, Repr

/-- Right after power-on (10_state.md R35, 70_reset_and_hazards.md R230): the block's state at its reset values, nothing
presented, nothing drawn, nothing written, nothing returned, no mark. -/
def State.reset : State where
  cfg := Config.hardware
  phase := .awaitingRise
  tRise := 0
  tFall := 0
  distanceCm := 0
  modeCache := 0x00
  opQueue := []
  busOutcomes := []
  draws := 0
  controller := []
  bus := []
  results := []
  refusedMark := false

end Sys2Proof.Machine
end

