-- ==== Sys2Proof/Machine/Flags.lean ====
section
/-! DEFINITION. The block has no flags (10_state.md R30). Its one status bit is rng.phase; this file gives its encoding
and the output that follows it (R21, R22, R25), and DRIVE's failsafe test, "a comparison whose result is not stored". -/

namespace Sys2Proof.Machine

/-- AWAITING_RISE = 0 and AWAITING_FALL = 1 (10_state.md R22). -/
def phaseBit : Phase → BitVec 1
  | .awaitingRise => 0
  | .awaitingFall => 1

/-- Which edge the capture timer captures next (10_state.md R21). -/
inductive Edge where
  | rising
  | falling
  deriving DecidableEq, Repr

/-- 0 = RISING, 1 = FALLING (10_state.md R21). -/
def edgeBit : Edge → BitVec 1
  | .rising => 0
  | .falling => 1

/-- The `edge_sel` output, a function of rng.phase (10_state.md R25). -/
def State.edgeSel (s : State) : Edge :=
  match s.phase with
  | .awaitingRise => .rising
  | .awaitingFall => .falling

/-- Failsafe(dist, throttle) (42_drive_failsafe.md R161): dist unsigned, throttle as commanded, before any clamp (R162). -/
def failsafe (c : Config) (dist : Nat) (throttle : Int) : Bool :=
  0 < dist && dist < c.failsafeCm && 0 < throttle

end Sys2Proof.Machine
end

