-- ==== Sys2Proof/Machine/Ops.lean ====
section
/-! DEFINITION. The shared operations over the state: the controller's registers, the bus write and its outcome, a
performed operation and a refused one, reset. The block takes no exception and returns from none
(60_exceptions.md R200, R207, R208), so no such operation stands here. -/

namespace Sys2Proof.Machine

/-- One step's answer. -/
abbrev Answer := Host.Outcome State Fault Refusal

/-- The byte the last delivered write left at a register address, or no value where none was delivered. -/
def Memory.read : Memory → Byte → Option Byte
  | [], _ => none
  | (a, v) :: m, reg => if a = reg.toNat then some v else Memory.read m reg

/-- A delivered write: the register holds the byte (20_memory.md R52, R56). Keeps the canonical form. -/
def Memory.write : Memory → Byte → Byte → Memory
  | [], reg, val => [(reg.toNat, val)]
  | (a, v) :: m, reg, val =>
    if reg.toNat < a then (reg.toNat, val) :: (a, v) :: m
    else if reg.toNat = a then (a, val) :: m
    else (a, v) :: Memory.write m reg val

/-- What a write does to the controller's registers: delivered on OK, lost on TIMEOUT (60_exceptions.md R206). -/
def Memory.deliver (m : Memory) (w : BusWrite) (o : BusOutcome) : Memory :=
  match o with
  | .ok => Memory.write m w.reg w.val
  | .timeout => m

/-- What the controller's register holds: the last byte that reached it, else the device's own, a free value (log 6). -/
def State.deviceByte (s : State) (reg : Byte) : Byte :=
  (Memory.read s.controller reg).getD (Config.deviceByte reg)

/-- The step of the bus agent (10_state.md R20): the outcome of the next write, the next listed one, else a free one. -/
def State.nextOutcome (s : State) : BusOutcome :=
  match s.busOutcomes with
  | o :: _ => o
  | [] => Config.busDraw s.draws

/-- BusWrite(reg, val) (20_memory.md R52): one transaction. Its outcome decides only whether the register takes the byte; no
block state and no later write depends on it (60_exceptions.md R206). -/
def State.busWrite (s : State) (w : BusWrite) : State :=
  { s with
    busOutcomes := s.busOutcomes.tail
    draws := s.draws + 1
    controller := Memory.deliver s.controller w s.nextOutcome
    bus := s.bus ++ [⟨w, s.nextOutcome⟩] }

/-- The writes of an operation, in order, none dropped (20_memory.md R62). -/
def State.emit (s : State) (ws : List BusWrite) : State := ws.foldl State.busWrite s

/-- The bus-write trace of the run, without the outcomes (00_scope.md R12). -/
def State.trace (s : State) : List BusWrite := s.bus.map BusTxn.write

/-- `rst`: every piece of block state at its reset value (70_reset_and_hazards.md R230). It emits no write and touches
neither the controller (R232) nor the configuration nor the mark (60_exceptions.md R203). -/
def State.blockReset (s : State) : State :=
  { s with
    phase := State.reset.phase
    tRise := State.reset.tRise
    tFall := State.reset.tFall
    distanceCm := State.reset.distanceCm
    modeCache := State.reset.modeCache }

/-- A performed operation ends in its next state; every operation under an ill-formed configuration is refused
(60_exceptions.md R202, R203; 00_scope.md R8). -/
def State.perform (s : State) (t : State) : Answer :=
  if s.cfg.WellFormed then .next t else .refused .illFormedConfig

end Sys2Proof.Machine
end

