-- ==== Sys2Proof/Machine/Actuator.lean ====
section
/-! DEFINITION. ACT's operations, ACT_INIT, SET_STEER and SET_THROTTLE (41_actuator.md). -/

namespace Sys2Proof.Machine

/-- BusWrite(reg, val) with the address a parameter gives. -/
def regWrite (reg : Nat) (val : Byte) : BusWrite := ⟨regAddr reg, val⟩

/-- WriteChannel(ch, on, off): on-low, on-high, off-low, off-high (41_actuator.md R123, 30_encoding.md R81). -/
def writeChannel (c : Config) (ch : Nat) (on off : Count) : List BusWrite :=
  [ regWrite (regOnL c ch) (lo8 on),
    regWrite (regOnL c ch + 1) (hi8 on),
    regWrite (regOnL c ch + 2) (lo8 off),
    regWrite (regOnL c ch + 3) (hi8 off) ]

/-- WriteChannel(ch, FULL_ON) and WriteChannel(ch, FULL_OFF) (41_actuator.md R123). -/
def writeChannelPair (c : Config) (ch : Nat) (p : CountPair) : List BusWrite :=
  writeChannel c ch (count16 p.on) (count16 p.off)

/-- act.mode_cache after step (3) (41_actuator.md R124). -/
def modeAfterInit (c : Config) : Byte := c.mode1Init

/-- act.mode_cache after step (4), which step (5) calls the previous mode (41_actuator.md R124, 90_conflicts.md C6). -/
def modeAwake (c : Config) : Byte := modeAfterInit c &&& ~~~c.mode1Sleep

/-- The 11 writes of ACT_INIT, in order (41_actuator.md R124). -/
def actInitWrites (c : Config) : List BusWrite :=
  [ -- (1) clear all channel outputs
    regWrite (c.regAllBase + 0) 0x00,
    regWrite (c.regAllBase + 1) 0x00,
    regWrite (c.regAllBase + 2) 0x00,
    regWrite (c.regAllBase + 3) 0x00,
    -- (2) output-driver mode
    regWrite c.regMode2 c.mode2Init,
    -- (3) address-response mode
    regWrite c.regMode1 (modeAfterInit c),
    -- (4) clear the sleep bit
    regWrite c.regMode1 (modeAwake c),
    -- (5) program the frequency while asleep
    regWrite c.regMode1 (modeAwake c ||| c.mode1Sleep),
    regWrite c.regPrescale (BitVec.ofInt 8 (prescaleVal c)),
    regWrite c.regMode1 (modeAwake c),
    regWrite c.regMode1 (modeAwake c ||| c.mode1Restart) ]

/-- The 4 writes of SET_STEER (41_actuator.md R126). -/
def steerWrites (c : Config) (angle : Int) : List BusWrite :=
  writeChannel c c.chSteer 0 (count16 (steerPwm c angle))

/-- The direction channels for a clamped speed (41_actuator.md R128): the one to turn off before the one to turn on. -/
def directionWrites (c : Config) (v : Int) : List BusWrite :=
  if 0 < v then writeChannelPair c c.chDirNeg c.fullOff ++ writeChannelPair c c.chDirPos c.fullOn
  else if v < 0 then writeChannelPair c c.chDirPos c.fullOff ++ writeChannelPair c c.chDirNeg c.fullOn
  else writeChannelPair c c.chDirPos c.fullOff ++ writeChannelPair c c.chDirNeg c.fullOff

/-- The 12 writes of SET_THROTTLE (41_actuator.md R128). -/
def throttleWrites (c : Config) (speed : Int) : List BusWrite :=
  directionWrites c (clamp speed (-c.cmdLimit) c.cmdLimit) ++
    writeChannel c c.chPwm 0 (count16 (throttleDuty c speed))

/-- ACT_INIT (41_actuator.md R124). The restart bit is not kept in act.mode_cache. -/
def execActInit (s : State) : Answer :=
  s.perform { s.emit (actInitWrites s.cfg) with modeCache := modeAwake s.cfg }

/-- SET_STEER (41_actuator.md R126). -/
def execSetSteer (angle : Operand) (s : State) : Answer :=
  s.perform (s.emit (steerWrites s.cfg (signedValue angle)))

/-- SET_THROTTLE (41_actuator.md R128). -/
def execSetThrottle (speed : Operand) (s : State) : Answer :=
  s.perform (s.emit (throttleWrites s.cfg (signedValue speed)))

end Sys2Proof.Machine
end

