-- ==== Sys2Proof/Machine/Drive.lean ====
section
/-! DEFINITION. DRIVE, the failsafe and both actuators (42_drive_failsafe.md). -/

namespace Sys2Proof.Machine

/-- The effective throttle: 0 where the failsafe holds, else the commanded value unchanged (42_drive_failsafe.md R160). -/
def effectiveThrottle (c : Config) (dist : Nat) (throttle : Int) : Int :=
  if failsafe c dist throttle then 0 else throttle

/-- The 16 writes of DRIVE, SET_THROTTLE's and then SET_STEER's (42_drive_failsafe.md R160). -/
def driveWrites (c : Config) (dist : Nat) (throttle steer : Int) : List BusWrite :=
  throttleWrites c (effectiveThrottle c dist throttle) ++ steerWrites c steer

/-- DRIVE (42_drive_failsafe.md R160): one whole read of the distance word, then the writes. -/
def execDrive (throttle steer : Operand) (s : State) : Answer :=
  s.perform (s.emit (driveWrites s.cfg s.distanceCm (signedValue throttle) (signedValue steer)))

end Sys2Proof.Machine
end

