-- ==== Sys2Proof/Machine/Ranging.lean ====
section
/-! DEFINITION. RNG's operations, ECHO_CAPTURE and DIST_READ (40_ranging.md). -/

namespace Sys2Proof.Machine

/-- The effect of one captured edge (40_ranging.md R102). -/
def State.capture (s : State) (tick : Nat) : State :=
  match s.phase with
  | .awaitingRise => { s with tRise := tick, phase := .awaitingFall }
  | .awaitingFall =>
    { s with
      tFall := tick
      distanceCm := ticksToCm s.cfg (elapsed s.cfg s.tRise tick)
      phase := .awaitingRise }

/-- The published distance, read whole (40_ranging.md R105, 20_memory.md R61). -/
def State.returnResult (s : State) (v : Nat) : State := { s with results := s.results ++ [v] }

/-- ECHO_CAPTURE (40_ranging.md R102). -/
def execEchoCapture (tick : Operand) (s : State) : Answer := s.perform (s.capture tick.toNat)

/-- DIST_READ (40_ranging.md R105). -/
def execDistRead (s : State) : Answer := s.perform (s.returnResult s.distanceCm)

end Sys2Proof.Machine
end

