-- ==== Sys2Proof/Machine/Dispatch.lean ====
section
/-! DEFINITION. The meaning of each operation, one arm per constructor. -/

namespace Sys2Proof.Machine

def exec (i : Instr) (s : State) : Host.Outcome State Fault Refusal :=
  match i with
  | .echoCapture tick => Sys2Proof.Machine.execEchoCapture tick s
  | .distRead => Sys2Proof.Machine.execDistRead s
  | .actInit => Sys2Proof.Machine.execActInit s
  | .setSteer angle => Sys2Proof.Machine.execSetSteer angle s
  | .setThrottle speed => Sys2Proof.Machine.execSetThrottle speed s
  | .drive throttle steer => Sys2Proof.Machine.execDrive throttle steer s

end Sys2Proof.Machine
end

