-- ==== Sys2Proof/Machine/Port.lean ====
section
/-! DEFINITION. What the block does with one event of its `op` and `rst` ports (10_state.md R21, 60_exceptions.md R202, R203,
70_reset_and_hazards.md R230, R231). -/

namespace Sys2Proof.Machine

/-- An operation word on `op`: refused where the configuration is ill-formed or the word illegal, else performed. -/
def performWord (w : OpWord) (s : State) : Answer :=
  if s.cfg.WellFormed then
    match decode s.cfg w with
    | .ok i => exec i s
    | .error r => .refused (.illegalWord r)
  else .refused .illFormedConfig

/-- The bus writes of an operation performed in a state, in order. ECHO_CAPTURE and DIST_READ emit none, "so they are never
cut" (70_reset_and_hazards.md R231). -/
def opWrites (i : Instr) (s : State) : List BusWrite :=
  match i with
  | .echoCapture _ => []
  | .distRead => []
  | .actInit => actInitWrites s.cfg
  | .setSteer angle => steerWrites s.cfg (signedValue angle)
  | .setThrottle speed => throttleWrites s.cfg (signedValue speed)
  | .drive throttle steer => driveWrites s.cfg s.distanceCm (signedValue throttle) (signedValue steer)

/-- `rst` after a performed operation; a refused operation stays refused. -/
def thenReset : Answer → Answer
  | .next s => .next s.blockReset
  | .fault f => .fault f
  | .refused r => .refused r

/-- An operation with `rst` after its write number `last` (70_reset_and_hazards.md R231). Where a write follows that one, the
writes after the reset are not emitted; where none does, the reset lands after the operation. -/
def performCut (i : Instr) (last : Nat) (s : State) : Answer :=
  if last + 1 < (opWrites i s).length then
    s.perform (s.emit ((opWrites i s).take (last + 1))).blockReset
  else thenReset (exec i s)

/-- An operation word on `op` with `rst` after its write number `last`. Where the word is refused, so is the step, and `rst` has
no write to come between: no rule says when it lands, and `turn` lets it land right after the refused word, as an event of its
own (DESIGN CHOICE, log 22). -/
def performCutWord (w : OpWord) (last : Nat) (s : State) : Answer :=
  if s.cfg.WellFormed then
    match decode s.cfg w with
    | .ok i => performCut i last s
    | .error r => .refused (.illegalWord r)
  else .refused .illFormedConfig

/-- The oldest event, taken from the ports. Where nothing is presented, the block waits (10_state.md R29). -/
def performEvent (s : State) : Answer :=
  match s.opQueue with
  | [] => .next s
  | .op _ w :: rest => performWord w { s with opQueue := rest }
  | .opCutByRst _ w last :: rest => performCutWord w last { s with opQueue := rest }
  | .rst :: rest => .next { s with opQueue := rest }.blockReset

/-- The state with a word presented first of all. -/
def presentWord (w : OpWord) (s : State) : State :=
  { s with opQueue := .op .controlTask w :: s.opQueue }

end Sys2Proof.Machine
end

