-- ==== Sys2Proof/Machine/Step.lean ====
section
/-! DEFINITION. One step of the machine: the oldest event of the operation order (20_memory.md R60). -/

namespace Sys2Proof.Machine

/-- One step (60_exceptions.md R202): performed or refused. -/
def step (s : State) : Host.Outcome State Fault Refusal := performEvent s

/-- The state in which the very next step performs the word `w` of the opcode table: the control task presents it first of
all (log 1). -/
def State.withFetchWord (s : State) (nbits w : Nat) : State := presentWord (tableWord nbits w) s

end Sys2Proof.Machine
end

