-- ==== Sys2Proof/Machine/Asm.lean ====
section
/-! DEFINITION. The assembly text of 30_encoding.md R78 and the pseudo-operations of R79: one line, as its characters, to
the operation words it stands for. -/

namespace Sys2Proof.Machine

/-- Why a line does not assemble. -/
inductive AsmError where
  /-- no mnemonic of R78 or R79 -/
  | unknownMnemonic
  /-- too few or too many operands -/
  | operandCount
  /-- neither decimal nor `0x` hexadecimal -/
  | badLiteral
  /-- "A literal that does not fit its field is an assembly error" (R78) -/
  | literalRange
  deriving DecidableEq, Repr

/-- A literal as written: `0x` hexadecimal gives bits, decimal gives a signed value (log 17). -/
inductive Literal where
  | hex (v : Nat)
  | dec (v : Int)
  deriving DecidableEq, Repr

/-- The value of a digit in a base of at most 16, `none` for any other character. -/
def digitValue (base : Nat) (ch : Char) : Option Nat :=
  let n := ch.toNat
  let v := if 48 ≤ n ∧ n ≤ 57 then n - 48 else if 97 ≤ n ∧ n ≤ 102 then n - 87
    else if 65 ≤ n ∧ n ≤ 70 then n - 55 else base
  if v < base then some v else none

/-- Digits, most significant first, onto a value already read. -/
def readDigits (base : Nat) : List Char → Nat → Option Nat
  | [], v => some v
  | ch :: cs, v =>
    match digitValue base ch with
    | some d => readDigits base cs (base * v + d)
    | none => none

/-- One or more digits. -/
def readNumber (base : Nat) (cs : List Char) : Option Nat :=
  match cs with
  | [] => none
  | _ :: _ => readDigits base cs 0

/-- A literal: decimal with an optional `-`, or `0x` hexadecimal (R78). -/
def readLiteral (cs : List Char) : Option Literal :=
  match cs with
  | '-' :: ds => (readNumber 10 ds).map fun v => .dec (-(v : Int))
  | '0' :: 'x' :: ds => (readNumber 16 ds).map .hex
  | ds => (readNumber 10 ds).map fun v => .dec (v : Int)

/-- A blank or a tab. -/
def isBlank (ch : Char) : Bool := ch = ' ' || ch = '\t'

/-- A text without the blanks at its two ends. -/
def trimBlanks (cs : List Char) : List Char :=
  ((cs.dropWhile isBlank).reverse.dropWhile isBlank).reverse

/-- The texts between commas. -/
def splitCommas : List Char → List (List Char)
  | [] => [[]]
  | ',' :: cs => [] :: splitCommas cs
  | ch :: cs =>
    match splitCommas cs with
    | [] => [[ch]]
    | t :: ts => (ch :: t) :: ts

/-- The operand texts of what follows a mnemonic: none for blanks only. -/
def operandTexts (cs : List Char) : List (List Char) :=
  match trimBlanks cs with
  | [] => []
  | ch :: ds => (splitCommas (ch :: ds)).map trimBlanks

/-- A literal in the tick field, TICK_W bits unsigned (R71). -/
def tickLiteral (c : Config) (cs : List Char) : Except AsmError Operand :=
  match readLiteral cs with
  | none => .error .badLiteral
  | some (.hex v) => if v < 2 ^ c.tickW ∧ v < 2 ^ 32 then .ok (BitVec.ofNat 32 v) else .error .literalRange
  | some (.dec v) =>
    if 0 ≤ v ∧ v < (2 ^ c.tickW : Nat) ∧ v < 2 ^ 32 then .ok (BitVec.ofInt 32 v) else .error .literalRange

/-- A literal in a signed 32-bit field: a decimal value as s32, hexadecimal as the field's bits (log 17). -/
def signedLiteral (cs : List Char) : Except AsmError Operand :=
  match readLiteral cs with
  | none => .error .badLiteral
  | some (.hex v) => if v < 2 ^ 32 then .ok (BitVec.ofNat 32 v) else .error .literalRange
  | some (.dec v) => if -2 ^ 31 ≤ v ∧ v < 2 ^ 31 then .ok (BitVec.ofInt 32 v) else .error .literalRange

/-- The operations a mnemonic and its operand texts stand for (R78, R79). -/
def assembleOp (c : Config) (mnemonic : String) (args : List (List Char)) : Except AsmError (List Instr) :=
  if mnemonic = "echo_capture" then
    match args with
    | [t] => (tickLiteral c t).map fun v => [.echoCapture v]
    | _ => .error .operandCount
  else if mnemonic = "dist_read" then
    match args with
    | [] => .ok [.distRead]
    | _ => .error .operandCount
  else if mnemonic = "act_init" then
    match args with
    | [] => .ok [.actInit]
    | _ => .error .operandCount
  else if mnemonic = "set_steer" then
    match args with
    | [a] => (signedLiteral a).map fun v => [.setSteer v]
    | _ => .error .operandCount
  else if mnemonic = "set_throttle" then
    match args with
    | [a] => (signedLiteral a).map fun v => [.setThrottle v]
    | _ => .error .operandCount
  else if mnemonic = "drive" then
    match args with
    | [t, a] => (signedLiteral t).bind fun u => (signedLiteral a).map fun v => [.drive u v]
    | _ => .error .operandCount
  else if mnemonic = "coast" then
    match args with
    | [] => .ok [.setThrottle 0]
    | _ => .error .operandCount
  else if mnemonic = "center" then
    match args with
    | [] => .ok [.setSteer 0]
    | _ => .error .operandCount
  else if mnemonic = "measure" then
    match args with
    | [r, f] => (tickLiteral c r).bind fun u => (tickLiteral c f).map fun v => [.echoCapture u, .echoCapture v]
    | _ => .error .operandCount
  else .error .unknownMnemonic

/-- The operations of one line: a blank line or a comment alone has none (R78). -/
def assembleLine (c : Config) (line : List Char) : Except AsmError (List Instr) :=
  match trimBlanks (line.takeWhile fun ch => ch ≠ ';') with
  | [] => .ok []
  | ch :: cs =>
    assembleOp c (String.ofList ((ch :: cs).takeWhile fun x => !isBlank x))
      (operandTexts ((ch :: cs).dropWhile fun x => !isBlank x))

/-- The words of one line (R78: syntax and word). -/
def assembleWords (c : Config) (line : List Char) : Except AsmError (List OpWord) :=
  (assembleLine c line).map fun is => is.map encode

end Sys2Proof.Machine
end

