-- ==== Sys2Proof/Machine/Run.lean ====
section
/-! DEFINITION. The run with its refused mark (60_exceptions.md R203): what `step` answers, carried on past a refusal, as "the
mark is never cleared" says a run goes on. -/

namespace Sys2Proof.Machine

/-- The events still to come after the oldest one is refused. The refused word is gone (DESIGN CHOICE, log 7). The `rst` that
was to cut it is not refused with it: it stays, as the next event (DESIGN CHOICE, log 22). -/
def eventsAfterRefusal : List PortEvent → List PortEvent
  | [] => []
  | .op _ _ :: rest => rest
  | .opCutByRst _ _ _ :: rest => .rst :: rest
  | .rst :: rest => rest

/-- A refused event: it changes no state and emits nothing; its word is gone from the port, and the mark is set. -/
def State.markRefused (s : State) : State :=
  { s with opQueue := eventsAfterRefusal s.opQueue, refusedMark := true }

/-- One turn of the run: the next state of a performed event, the marked state of a refused one. -/
def turn (s : State) : State :=
  match step s with
  | .next t => t
  | .fault _ => s
  | .refused _ => s.markRefused

/-- `n` turns of the run. -/
def turns : Nat → State → State
  | 0, s => s
  | n + 1, s => turns n (turn s)

/-- The operations of a list performed one after the other, stopping where one is not performed. -/
def execAll : List Instr → State → Answer
  | [], s => .next s
  | i :: is, s =>
    match exec i s with
    | .next t => execAll is t
    | .fault f => .fault f
    | .refused r => .refused r

end Sys2Proof.Machine
end

