-- ==== Sys2Proof/Safety.lean ====
section
/-! DEFINITION. What counts as a good state and a good run, in the terms the claims use. -/

namespace Sys2Proof.Safety

open Sys2Proof.Machine

/-- No refused word so far: "no claim 'the run behaves' can hold of a run that met a refused word" (60_exceptions.md R203). -/
abbrev behaves (s : State) : Prop := s.refusedMark = false

/-- The allocation of operations to agents, a usage premise and no access check (10_state.md R20, 60_exceptions.md R210). "Any
task may issue DIST_READ", the control task among them; the capture source is an interrupt and no task, and "issues ECHO_CAPTURE
only". -/
def mayIssue : Issuer → Instr → Bool
  | .captureSource, .echoCapture _ => true
  | .controlTask, .actInit => true
  | .controlTask, .setSteer _ => true
  | .controlTask, .setThrottle _ => true
  | .controlTask, .drive _ _ => true
  | .controlTask, .distRead => true
  | .distanceReader, .distRead => true
  | .captureSource, .distRead => false
  | .captureSource, .actInit => false
  | .captureSource, .setSteer _ => false
  | .captureSource, .setThrottle _ => false
  | .captureSource, .drive _ _ => false
  | .controlTask, .echoCapture _ => false
  | .distanceReader, .echoCapture _ => false
  | .distanceReader, .actInit => false
  | .distanceReader, .setSteer _ => false
  | .distanceReader, .setThrottle _ => false
  | .distanceReader, .drive _ _ => false

/-- The event is of an agent that the allocation lets issue it (10_state.md R20). -/
def issuedAsAllocated (c : Config) : PortEvent → Bool
  | .op by_ w => match decode c w with
    | .ok i => mayIssue by_ i
    | .error _ => false
  | .opCutByRst by_ w _ => match decode c w with
    | .ok i => mayIssue by_ i
    | .error _ => false
  | .rst => true

/-- Ticks lie in [0, MAX_TICK], and the distance is one the conversion can give: "at most (MAX_TICK + 1) div US_PER_CM", in
DIST_W bits (10_state.md R23, R24). -/
abbrev rangingInRange (s : State) : Prop :=
  s.tRise ≤ s.cfg.maxTick ∧ s.tFall ≤ s.cfg.maxTick ∧
    s.distanceCm ≤ (s.cfg.maxTick + 1) / s.cfg.usPerCm ∧ s.distanceCm < 2 ^ s.cfg.distW

/-- The controller's registers hold exactly what the writes with outcome OK wrote (60_exceptions.md R206). -/
abbrev controllerHoldsDelivered (s : State) : Prop :=
  s.controller = s.bus.foldl (fun m t => Memory.deliver m t.write t.outcome) []

/-- The full-on flag of a channel in the controller's registers: bit 4 of the high byte of the on count (30_encoding.md R81,
10_state.md R33). -/
def fullOnFlag (s : State) (ch : Nat) : Bool :=
  (s.deviceByte (regAddr (regOnL s.cfg ch + 1))).getLsbD 4

/-- The H-bridge is not driven both ways at once. -/
abbrev bridgeSafe (s : State) : Prop :=
  ¬ (fullOnFlag s s.cfg.chDirPos = true ∧ fullOnFlag s s.cfg.chDirNeg = true)

/-- RNG's state is the same (10_state.md R22 to R24). -/
abbrev sameRanging (s t : State) : Prop :=
  t.phase = s.phase ∧ t.tRise = s.tRise ∧ t.tFall = s.tFall ∧ t.distanceCm = s.distanceCm

/-- All of the block's own state is the same (10_state.md R28). -/
abbrev sameBlock (s t : State) : Prop := sameRanging s t ∧ t.modeCache = s.modeCache

/-- What no operation's own effect touches but ECHO_CAPTURE's and DIST_READ's: the configuration, the events still to come,
the results, the mark. -/
abbrev samePorts (s t : State) : Prop :=
  t.cfg = s.cfg ∧ t.opQueue = s.opQueue ∧ t.results = s.results ∧ t.refusedMark = s.refusedMark

/-- Two states that differ at most in what the bus agent draws and in what therefore reached the controller
(60_exceptions.md R206). -/
abbrev sameUpToBusOutcomes (s t : State) : Prop := sameBlock s t ∧ samePorts s t ∧ t.trace = s.trace

/-- ECHO_CAPTURE. -/
def isCapture : Instr → Bool
  | .echoCapture _ => true
  | .distRead => false
  | .actInit => false
  | .setSteer _ => false
  | .setThrottle _ => false
  | .drive _ _ => false

/-- The other phase of the capture state machine (10_state.md R22). -/
def otherPhase : Phase → Phase
  | .awaitingRise => .awaitingFall
  | .awaitingFall => .awaitingRise

/-- Four channel numbers as the spec wants them bound: pairwise distinct, of 16 (00_scope.md R7, R8). -/
abbrev channelsBound (steer pwm dirPos dirNeg : Nat) : Prop :=
  [steer, pwm, dirPos, dirNeg].Nodup ∧ steer < 16 ∧ pwm < 16 ∧ dirPos < 16 ∧ dirNeg < 16

end Sys2Proof.Safety
end

