-- ==== Sys2Proof/Certificates/Slice0/Obligations.lean ====
section
/-! DEFINITION. The statements for the provers: what the numbered rules of spec/ say the block does, over every state and
configuration unless a statement says otherwise. `Config.withChannels a b p n` is the table of defaults of 00_scope.md R7
with the OPEN channels bound to any a, b, p, n. -/

open Sys2Proof Sys2Proof.Machine Sys2Proof.Safety

/-! ### Encoding -/

/-- Every well-formed operation, of every family, with every operand its encoding admits, decodes from its word
(30_encoding.md R70 to R75). -/
def Obligations.DecodeOfEncodeIsTheOperation : Prop :=
  ∀ (c : Config) (i : Instr), i.wellFormed c = true → decode c (encode i) = .ok i

/-- A word that decodes is the word of the operation it decodes to, which is well-formed: no bit is dropped. -/
def Obligations.DecodedWordIsTheEncoding : Prop :=
  ∀ (c : Config) (w : OpWord) (i : Instr), decode c w = .ok i → i.wellFormed c = true ∧ encode i = w

/-- 30_encoding.md R80's words, written out: they encode and decode as the rule says. -/
def Obligations.WrittenOutWordsDecode : Prop :=
  encode (.setSteer (BitVec.ofInt 32 (-100))) = 0x0400000000FFFFFF9C#72 ∧
  encode (.drive 50 (BitVec.ofInt 32 (-100))) = 0x0600000032FFFFFF9C#72 ∧
  encode (.echoCapture 60000) = 0x01000000000000EA60#72 ∧
  ∀ a b p n,
    decode (Config.withChannels a b p n) 0x0400000000FFFFFF9C#72 = .ok (.setSteer (BitVec.ofInt 32 (-100))) ∧
    decode (Config.withChannels a b p n) 0x0600000032FFFFFF9C#72 = .ok (.drive 50 (BitVec.ofInt 32 (-100))) ∧
    decode (Config.withChannels a b p n) 0x01000000000000EA60#72 = .ok (.echoCapture 60000) ∧
    decode (Config.withChannels a b p n) 0x020000000000000000#72 = .ok .distRead ∧
    decode (Config.withChannels a b p n) 0x030000000000000000#72 = .ok .actInit ∧
    decode (Config.withChannels a b p n) 0x0500000000FFFFFFCE#72 = .ok (.setThrottle (BitVec.ofInt 32 (-50)))

/-- 30_encoding.md R74 and R76, with 60_exceptions.md R203's order: the verdict is the first reason that applies, and a word
with none decodes, to the row its opc selects. Bit fields are written on the word's number. -/
def Obligations.VerdictIsTheFirstReason : Prop :=
  ∀ (c : Config) (w : OpWord),
    let opc := w.toNat / 2 ^ 64
    let a := w.toNat / 2 ^ 32 % 2 ^ 32
    let b := w.toNat % 2 ^ 32
    let s32 : Nat → Int := fun v => if v < 2 ^ 31 then v else v - 2 ^ 32
    let outside : Nat → Prop := fun v =>
      s32 v < -(2 ^ (c.cmdW - 1) : Nat) ∨ ((2 ^ (c.cmdW - 1) : Nat) : Int) - 1 < s32 v
    let badOpc := opc = 0 ∨ 7 ≤ opc
    let nonzero := ((opc = 2 ∨ opc = 3) ∧ (a ≠ 0 ∨ b ≠ 0)) ∨ (opc = 1 ∧ (a ≠ 0 ∨ 2 ^ c.tickW ≤ b)) ∨
      ((opc = 4 ∨ opc = 5) ∧ a ≠ 0)
    let tick := opc = 1 ∧ c.maxTick < b
    let range := ((opc = 4 ∨ opc = 5 ∨ opc = 6) ∧ outside b) ∨ (opc = 6 ∧ outside a)
    (decode c w = .error .badOpc ↔ badOpc) ∧
    (decode c w = .error .nonzeroReserved ↔ ¬ badOpc ∧ nonzero) ∧
    (decode c w = .error .tickRange ↔ ¬ badOpc ∧ ¬ nonzero ∧ tick) ∧
    (decode c w = .error .operandRange ↔ ¬ badOpc ∧ ¬ nonzero ∧ ¬ tick ∧ range) ∧
    ((∃ i, decode c w = .ok i) ↔ ¬ badOpc ∧ ¬ nonzero ∧ ¬ tick ∧ ¬ range) ∧
    (∀ i, decode c w = .ok i → opc = match i.name with
      | .echoCapture => 1
      | .distRead => 2
      | .actInit => 3
      | .setSteer => 4
      | .setThrottle => 5
      | .drive => 6) ∧
    (32 ≤ c.cmdW → decode c w ≠ .error .operandRange) ∧
    (c.WellFormed → decode c w ≠ .error .tickRange)

/-- 30_encoding.md R75: the operands are the word's bit fields, the tick unsigned, the commands as s32, none scaled; and a
command outside sCMD_W decodes to nothing. -/
def Obligations.OperandsAreTheWordsFields : Prop :=
  ∀ (c : Config) (w : OpWord),
    let a := w.toNat / 2 ^ 32 % 2 ^ 32
    let b := w.toNat % 2 ^ 32
    let s32 : Nat → Int := fun v => if v < 2 ^ 31 then v else v - 2 ^ 32
    let inside : Int → Prop := fun v => -(2 ^ (c.cmdW - 1) : Nat) ≤ v ∧ v ≤ ((2 ^ (c.cmdW - 1) : Nat) : Int) - 1
    (∀ t, decode c w = .ok (.echoCapture t) → t.toNat = b % 2 ^ c.tickW ∧ t.toNat ≤ c.maxTick) ∧
    (∀ v, decode c w = .ok (.setSteer v) → signedValue v = s32 b ∧ inside (signedValue v)) ∧
    (∀ v, decode c w = .ok (.setThrottle v) → signedValue v = s32 b ∧ inside (signedValue v)) ∧
    (∀ u v, decode c w = .ok (.drive u v) →
      signedValue u = s32 a ∧ signedValue v = s32 b ∧ inside (signedValue u) ∧ inside (signedValue v))

/-! ### The configuration -/

/-- 00_scope.md R8: the clauses, one by one; an ill-formed configuration is refused as a whole, no operation having a meaning
under it; and the defaults meet every clause once the four channels are bound. (That STEER_SCALE has a denominator is
log 12.) -/
def Obligations.ConfigurationClauses : Prop :=
  (∀ c : Config, 1 ≤ c.steerScale.den →
    (c.WellFormed ↔
      c.maxTick + 1 = 2 ^ c.tickW ∧ 1 ≤ c.usPerCm ∧ 1 ≤ c.cmdLimit ∧ c.cmdLimit < 2 ^ (c.cmdW - 1) ∧ 1 ≤ c.freqHz ∧
      0 ≤ prescaleVal c ∧ prescaleVal c ≤ 255 ∧
      ([c.chSteer, c.chPwm, c.chDirPos, c.chDirNeg].Nodup ∧ ∀ ch ∈ [c.chSteer, c.chPwm, c.chDirPos, c.chDirNeg], ch < c.nCh) ∧
      (∀ r ∈ [c.regMode1, c.regMode2, c.regLedBase, c.regAllBase, c.regAllBase + 1, c.regAllBase + 2, c.regAllBase + 3,
        c.regPrescale], r ≤ 255) ∧
      (∀ ch < c.nCh, ∀ k < 4, c.regLedBase + 4 * ch + k ≤ 255) ∧
      c.steerCenter + roundHaz (c.cmdLimit * c.steerScale.num) c.steerScale.den ≤ 4095 ∧
      0 ≤ c.steerCenter - roundHaz (c.cmdLimit * c.steerScale.num) c.steerScale.den)) ∧
  (∀ (i : Instr) (s : State), ¬ s.cfg.WellFormed → exec i s = .refused .illFormedConfig) ∧
  (∀ a b p n, (Config.withChannels a b p n).WellFormed ↔ channelsBound a b p n)

/-! ### The step and the run -/

/-- A step performs the operation the oldest presented word decodes to, whoever issued it (10_state.md R29,
60_exceptions.md R210), on the state from whose port the word is taken. The queue of presented events is the model's choice
(log 1). -/
def Obligations.StepPerformsThePresentedOperation : Prop :=
  ∀ (s : State) (by_ : Issuer) (w : OpWord) (rest : List PortEvent) (i : Instr),
    s.opQueue = .op by_ w :: rest → s.cfg.WellFormed → decode s.cfg w = .ok i →
      step s = exec i { s with opQueue := rest }

/-- Words presented one after the other are performed in that order, each on the state the one before it left
(20_memory.md R60). The queue of presented events is the model's choice (log 1). -/
def Obligations.OperationsArePerformedInPresentationOrder : Prop :=
  ∀ (ops : List (Issuer × Instr)) (s t : State),
    (∀ p ∈ ops, p.2.wellFormed s.cfg = true) →
    s.opQueue = ops.map (fun p => PortEvent.op p.1 (encode p.2)) →
    execAll (ops.map Prod.snd) { s with opQueue := [] } = .next t →
      turns ops.length s = t

/-- Every operation completes under a well-formed configuration (60_exceptions.md R200, R202), and no step faults. -/
def Obligations.EveryOperationCompletes : Prop :=
  (∀ (i : Instr) (s : State), s.cfg.WellFormed → ∃ t, exec i s = .next t) ∧ ∀ s f, step s ≠ .fault f

/-- 60_exceptions.md R203: an illegal word is refused with its reason, any word under an ill-formed configuration is refused,
and the refused operation changes no state and emits nothing. That the word leaves the port and the run goes on with the mark
set is the model's choice (log 7). -/
def Obligations.RefusedWordsChangeNothingButTheMark : Prop :=
  ∀ (s : State) (by_ : Issuer) (w : OpWord) (rest : List PortEvent), s.opQueue = .op by_ w :: rest →
    (¬ s.cfg.WellFormed → step s = .refused .illFormedConfig) ∧
    (∀ r, s.cfg.WellFormed → decode s.cfg w = .error r → step s = .refused (.illegalWord r)) ∧
    (∀ r, step s = .refused r → turn s = { s with opQueue := rest, refusedMark := true })

/-- The mark says exactly whether a word was refused, and it is never cleared, `rst` included (60_exceptions.md R203; the mark
is a field of the model's, log 7). -/
def Obligations.MarkTellsWhetherAWordWasRefused : Prop :=
  ∀ (n : Nat) (s : State),
    (s.refusedMark = true → (turns n s).refusedMark = true) ∧
    (s.refusedMark = false →
      ((turns n s).refusedMark = false ↔ ∀ k < n, ∃ t, step (turns k s) = .next t))

/-- A performed step keeps the configuration (00_scope.md R7: "None is state: no operation changes them") and the mark, takes
one event, and only adds to what the block has written and returned. The queue of events and the whole-run lists are the model's
choice (log 1, log 15). -/
def Obligations.StepKeepsConfigurationAndExtendsOutputs : Prop :=
  ∀ s t : State, step s = .next t →
    t.cfg = s.cfg ∧ t.refusedMark = s.refusedMark ∧ t.opQueue = s.opQueue.tail ∧ s.bus <+: t.bus ∧
      s.results <+: t.results

/-! ### Reset -/

/-- 10_state.md R35: the reset values of the block's state, and edge_sel, at power-on and after `rst` in any state. -/
def Obligations.ResetValues : Prop :=
  let atReset : State → Prop := fun t =>
    t.phase = .awaitingRise ∧ t.tRise = 0 ∧ t.tFall = 0 ∧ t.distanceCm = 0 ∧ t.modeCache = 0x00 ∧ t.edgeSel = .rising
  atReset State.reset ∧
    ∀ (s : State) (rest : List PortEvent), s.opQueue = .rst :: rest → ∃ t, step s = .next t ∧ atReset t

/-- 70_reset_and_hazards.md R230: `rst` puts the block's state at its reset values, those of power-on, emits no write and
touches no device; power-on emits none either. That `rst` leaves the results and the counter of draws unchanged is the model's
own choice (log 15, log 5). -/
def Obligations.RstResetsTheBlockAlone : Prop :=
  ∀ (s : State) (rest : List PortEvent), s.opQueue = .rst :: rest →
    ∃ t, step s = .next t ∧
      t.phase = .awaitingRise ∧ t.edgeSel = .rising ∧ t.tRise = 0 ∧ t.tFall = 0 ∧ t.distanceCm = 0 ∧ t.modeCache = 0x00 ∧
      t.bus = s.bus ∧ t.controller = s.controller ∧ t.busOutcomes = s.busOutcomes ∧ t.draws = s.draws ∧ t.cfg = s.cfg ∧
      t.results = s.results ∧ t.refusedMark = s.refusedMark ∧ t.opQueue = rest ∧
      sameBlock State.reset t ∧ State.reset.bus = []

/-- 70_reset_and_hazards.md R231: `rst` between two bus writes leaves exactly the writes before it, in the controller too, and
the state of R230; an operation that has no later write to lose is performed whole and then reset. How the event names its
place is the model's choice (log 8). -/
def Obligations.RstCutsTheRemainingWrites : Prop :=
  ∀ (s : State) (by_ : Issuer) (w : OpWord) (last : Nat) (rest : List PortEvent) (i : Instr) (u : State),
    s.opQueue = .opCutByRst by_ w last :: rest → s.cfg.WellFormed → decode s.cfg w = .ok i →
    exec i { s with opQueue := rest } = .next u →
      ∃ t ws, step s = .next t ∧ u.trace = s.trace ++ ws ∧ t.trace = s.trace ++ ws.take (last + 1) ∧
        t.bus = u.bus.take (s.bus.length + last + 1) ∧
        t.controller = ({ s with opQueue := rest }.emit (ws.take (last + 1))).controller ∧
        t.phase = .awaitingRise ∧ t.tRise = 0 ∧ t.tFall = 0 ∧ t.distanceCm = 0 ∧ t.modeCache = 0x00 ∧
        t.opQueue = rest ∧ t.results = u.results ∧ t.cfg = s.cfg ∧ t.refusedMark = s.refusedMark

/-! ### Ranging -/

/-- 40_ranging.md R101: Elapsed, its range, its residue and its corner cases. -/
def Obligations.ElapsedIsTheResidueWithFullWrapForZero : Prop :=
  ∀ (c : Config) (r f : Nat), r ≤ c.maxTick → f ≤ c.maxTick →
    elapsed c r f = (if f > r then f - r else (c.maxTick + 1 - r) + f) ∧
    1 ≤ elapsed c r f ∧ elapsed c r f ≤ c.maxTick + 1 ∧
    (c.maxTick + 1 = 2 ^ c.tickW → elapsed c r f < 2 ^ (c.tickW + 1)) ∧
    ((elapsed c r f : Int) = if ((f : Int) - r) % (c.maxTick + 1) = 0 then (c.maxTick : Int) + 1
      else ((f : Int) - r) % (c.maxTick + 1)) ∧
    elapsed c r r = c.maxTick + 1 ∧
    (1 ≤ r → elapsed c r (r - 1) = c.maxTick) ∧
    elapsed c c.maxTick 0 = 1 ∧
    (0 < c.maxTick → elapsed c 0 c.maxTick = c.maxTick)

/-- 40_ranging.md R104: a pulse of L ticks from any rising tick is measured as L up to one full wrap, and aliases above. -/
def Obligations.PulseLengthIsMeasuredUpToOneWrap : Prop :=
  ∀ (c : Config) (r l : Nat), r ≤ c.maxTick → 1 ≤ l →
    elapsed c r ((r + l) % (c.maxTick + 1)) = (l - 1) % (c.maxTick + 1) + 1 ∧
    (l ≤ c.maxTick + 1 → elapsed c r ((r + l) % (c.maxTick + 1)) = l)

/-- 40_ranging.md R103: the conversion truncates, its range with the defaults, and it fits DIST_W bits. -/
def Obligations.ConversionTruncates : Prop :=
  (∀ (c : Config) (e : Nat), e / c.usPerCm < 2 ^ c.distW → ticksToCm c e = e / c.usPerCm) ∧
  (∀ a b p n e, e ≤ 65536 →
    ticksToCm (Config.withChannels a b p n) e = e / 58 ∧ ticksToCm (Config.withChannels a b p n) e ≤ 1129 ∧
    ticksToCm (Config.withChannels a b p n) e < 2 ^ (Config.withChannels a b p n).distW) ∧
  (∀ a b p n, ticksToCm (Config.withChannels a b p n) 5636 = 97 ∧ ticksToCm (Config.withChannels a b p n) 65536 = 1129 ∧
    ticksToCm (Config.withChannels a b p n) 65535 = 1129)

/-- 40_ranging.md R110: the outcome classes with the defaults. -/
def Obligations.DistanceOutcomeClasses : Prop :=
  ∀ a b p n r f, r ≤ 65535 → f ≤ 65535 →
    let c := Config.withChannels a b p n
    (f > r → elapsed c r f = f - r ∧ ticksToCm c (elapsed c r f) = (f - r) / 58) ∧
    (f < r → elapsed c r f = 65536 - r + f ∧ ticksToCm c (elapsed c r f) = (65536 - r + f) / 58) ∧
    (f = r → elapsed c r f = 65536 ∧ ticksToCm c (elapsed c r f) = 1129) ∧
    (elapsed c r f < 58 → 1 ≤ elapsed c r f ∧ elapsed c r f ≤ 57 ∧ ticksToCm c (elapsed c r f) = 0) ∧
    (65482 ≤ elapsed c r f → elapsed c r f ≤ 65536 ∧ ticksToCm c (elapsed c r f) = 1129)

/-- 40_ranging.md R102: the first capture of a pulse records its tick and nothing else; the second records its tick, publishes
the distance and nothing else; edge_sel flips at each; its word; and the rule's example. -/
def Obligations.EchoCaptureRecordsAndMeasures : Prop :=
  (∀ (s : State) (tick : Operand), s.cfg.WellFormed → s.phase = .awaitingRise →
    exec (.echoCapture tick) s = .next { s with tRise := tick.toNat, phase := .awaitingFall }) ∧
  (∀ (s : State) (tick : Operand), s.cfg.WellFormed → s.phase = .awaitingFall →
    s.tRise ≤ s.cfg.maxTick → tick.toNat ≤ s.cfg.maxTick → (s.cfg.maxTick + 1) / s.cfg.usPerCm < 2 ^ s.cfg.distW →
    exec (.echoCapture tick) s = .next { s with
      tFall := tick.toNat
      distanceCm := (if tick.toNat > s.tRise then tick.toNat - s.tRise
        else (s.cfg.maxTick + 1 - s.tRise) + tick.toNat) / s.cfg.usPerCm
      phase := .awaitingRise }) ∧
  (∀ (s t : State) (tick : Operand), exec (.echoCapture tick) s = .next t →
    (s.edgeSel = .rising → t.edgeSel = .falling) ∧ (s.edgeSel = .falling → t.edgeSel = .rising)) ∧
  (∀ (c : Config) (tick : Operand), (Instr.echoCapture tick).wellFormed c = true →
    decode c (0x01#8 ++ 0#32 ++ tick) = .ok (.echoCapture tick)) ∧
  (∃ t, execAll [.echoCapture 60000, .echoCapture 100] State.reset = .next t ∧ t.distanceCm = 97)

/-- 40_ranging.md R105: DIST_READ returns the published distance and changes no block state; its word; and the rule's
corner cases and example. -/
def Obligations.DistReadReturnsThePublishedDistance : Prop :=
  (∀ s : State, s.cfg.WellFormed → exec .distRead s = .next { s with results := s.results ++ [s.distanceCm] }) ∧
  (∀ c : Config, decode c (0x02#8 ++ 0#32 ++ 0#32) = .ok .distRead) ∧
  (∃ t, execAll [.distRead, .echoCapture 60000, .distRead, .echoCapture 100, .distRead, .echoCapture 30000, .distRead]
    State.reset = .next t ∧ t.results = [0, 0, 97, 97])

/-- 20_memory.md R61: whatever other operations come between, DIST_READ returns the value of the latest completed
measurement. -/
def Obligations.ReadReturnsTheLatestMeasurement : Prop :=
  ∀ (s t u : State) (fall : Operand) (others : List Instr),
    s.phase = .awaitingFall → exec (.echoCapture fall) s = .next t → (∀ i ∈ others, isCapture i = false) →
    execAll others t = .next u →
      (∃ v, exec .distRead u = .next v ∧
        v.results = u.results ++ [ticksToCm s.cfg (elapsed s.cfg s.tRise fall.toNat)]) ∧
      (∀ rise w, exec (.echoCapture rise) u = .next w → w.distanceCm = u.distanceCm)

/-- 40_ranging.md R108 and 20_memory.md R60: however captures and other operations interleave, RNG's state is what the captures
alone make of it. -/
def Obligations.RangingDependsOnCapturesAlone : Prop :=
  ∀ (ops : List Instr) (s t : State), execAll ops s = .next t →
    ∃ u, execAll (ops.filter isCapture) s = .next u ∧ sameRanging u t

/-- 40_ranging.md R106 and R107: captures pair by position only, so the phase is the parity of the captures; a lost one
inverts the pairing for good. -/
def Obligations.PhaseIsTheParityOfTheCaptures : Prop :=
  ∀ (ops : List Instr) (s t : State), execAll ops s = .next t →
    t.phase = if (ops.filter isCapture).length % 2 = 0 then s.phase else otherPhase s.phase

/-- 70_reset_and_hazards.md R237's derived example: the fall at 580 is lost. -/
def Obligations.LostEdgeExample : Prop :=
  (∃ t, execAll [.echoCapture 0, .echoCapture 20000] State.reset = .next t ∧ t.distanceCm = 344) ∧
  (∃ t, execAll [.echoCapture 0, .echoCapture 20000, .echoCapture 20580, .echoCapture 40000] State.reset = .next t ∧
    t.distanceCm = 334) ∧
  (∃ t, execAll [.echoCapture 0, .echoCapture 20000, .echoCapture 20580, .echoCapture 40000, .echoCapture 40580,
    .echoCapture 60000] State.reset = .next t ∧ t.distanceCm = 334)

/-- Every step keeps the ticks in [0, MAX_TICK] and the distance within what the conversion can give (10_state.md R23, R24),
for every value of the free distance, which is the model's choice (log 10). -/
def Obligations.StepKeepsRangingInRange : Prop :=
  ∀ s t : State, rangingInRange s → step s = .next t → rangingInRange t

/-! ### The actuator -/

/-- 00_scope.md R10: round_haz gives a nearest integer, and the one away from zero on a tie. -/
def Obligations.RoundHazIsNearestTiesAway : Prop :=
  ∀ (n : Int) (d : Nat), 0 < d →
    2 * |n - roundHaz n d * d| ≤ d ∧ (2 * |n - roundHaz n d * d| = d → |n| < |roundHaz n d * d|)

/-- 41_actuator.md R125: SteerPwm, for every configuration and with the defaults. -/
def Obligations.SteerPwmIsTheLiteralFormula : Prop :=
  (∀ (c : Config) (angle : Int),
    steerPwm c angle =
      c.steerCenter - roundHaz (max (-(c.cmdLimit : Int)) (min c.cmdLimit angle) * c.steerScale.num) c.steerScale.den) ∧
  (∀ a b p n angle,
    let c := Config.withChannels a b p n
    let v := max (-100) (min 100 angle)
    340 ≤ steerPwm c angle ∧ steerPwm c angle ≤ 520 ∧
    2 * |10 * (430 - steerPwm c angle) - 9 * v| ≤ 10 ∧
    (v % 10 = 5 ↔ 2 * |10 * (430 - steerPwm c angle) - 9 * v| = 10) ∧
    (v % 10 = 5 → 0 < v → 10 * (430 - steerPwm c angle) = 9 * v + 5) ∧
    (v % 10 = 5 → v < 0 → 10 * (430 - steerPwm c angle) = 9 * v - 5) ∧
    (∀ angle', angle ≤ angle' → steerPwm c angle' ≤ steerPwm c angle)) ∧
  (∀ a b p n,
    let c := Config.withChannels a b p n
    steerPwm c 5 = 425 ∧ steerPwm c (-5) = 435 ∧ steerPwm c (-100) = 520 ∧ steerPwm c 100 = 340)

/-- 00_scope.md R8's last clause does what it says, for a slope that is not negative: every steering value fits 12 bits.
That a negative slope is admitted is the model's reading (log 12). -/
def Obligations.SteeringValuesFitTwelveBits : Prop :=
  ∀ (c : Config) (angle : Int), c.WellFormed → 0 ≤ c.steerScale.num →
    0 ≤ steerPwm c angle ∧ steerPwm c angle ≤ 4095 ∧ (count16 (steerPwm c angle)).toNat = (steerPwm c angle).toNat

/-- 41_actuator.md R127: ThrottleDuty, its range, the exact product, and the rule's values. -/
def Obligations.ThrottleDutyTruncates : Prop :=
  (∀ (c : Config) (speed : Int), 1 ≤ c.cmdLimit →
    throttleDuty c speed = min speed.natAbs c.cmdLimit * c.dutyMax / c.cmdLimit ∧ throttleDuty c speed ≤ c.dutyMax) ∧
  (∀ a b p n speed,
    let c := Config.withChannels a b p n
    (clamp speed (-100) 100).natAbs * 4095 ≤ 409500 ∧ throttleDuty c (-speed) = throttleDuty c speed) ∧
  (∀ a b p n,
    let c := Config.withChannels a b p n
    throttleDuty c 50 = 2047 ∧ throttleDuty c 1 = 40 ∧ throttleDuty c 99 = 4054 ∧ throttleDuty c 100 = 4095 ∧
      throttleDuty c (-100) = 4095)

/-- 41_actuator.md R122: the prescale, its two forms, its value, that no tie arises, and the frequencies that fit a byte. -/
def Obligations.PrescaleIsExact : Prop :=
  (∀ c : Config, 0 < c.pwmSteps * c.freqHz →
    prescaleVal c = roundHaz c.oscHz (c.pwmSteps * c.freqHz) - 1 ∧
    prescaleVal c = ((2 * c.oscHz + c.pwmSteps * c.freqHz) / (2 * c.pwmSteps * c.freqHz) : Nat) - 1) ∧
  (∀ a b p n, prescaleVal (Config.withChannels a b p n) = 101) ∧
  (∀ f k : Nat, 2 * 25000000 ≠ (2 * k + 1) * (4096 * f)) ∧
  (∀ a b p n f, channelsBound a b p n →
    ({ Config.withChannels a b p n with freqHz := f }.WellFormed ↔ 24 ≤ f ∧ f ≤ 12207))

/-- 30_encoding.md R81 and 41_actuator.md R121: the four registers of a channel update and the bytes they get; the two bytes
are the count, low first; and the high byte's upper bits for counts of 12 bits and for 4096. -/
def Obligations.ChannelUpdateBytes : Prop :=
  (∀ (c : Config) (ch : Nat) (on off : Count),
    writeChannel c ch on off =
      [⟨BitVec.ofNat 8 (c.regLedBase + 4 * ch + 0), lo8 on⟩, ⟨BitVec.ofNat 8 (c.regLedBase + 4 * ch + 1), hi8 on⟩,
       ⟨BitVec.ofNat 8 (c.regLedBase + 4 * ch + 2), lo8 off⟩, ⟨BitVec.ofNat 8 (c.regLedBase + 4 * ch + 3), hi8 off⟩]) ∧
  (∀ v : Count, v.toNat = (lo8 v).toNat + 256 * (hi8 v).toNat) ∧
  (∀ v : Count, v.toNat ≤ 4095 → (hi8 v).toNat < 16) ∧
  hi8 4096 = 0x10 ∧ lo8 4096 = 0x00

/-- 41_actuator.md R124: ACT_INIT's 11 writes in order, the mode cache it leaves, and nothing else; the trace with the
defaults; issued twice it emits the same 11 writes twice; and its word. -/
def Obligations.ActInitBringsUpTheController : Prop :=
  (∀ c : Config, decode c (0x03#8 ++ 0#32 ++ 0#32) = .ok .actInit) ∧
  (∀ s : State, s.cfg.WellFormed →
    let c := s.cfg
    let old := c.mode1Init &&& ~~~c.mode1Sleep
    let reg : Nat → Byte := BitVec.ofNat 8
    let ws : List BusWrite :=
      [⟨reg c.regAllBase, 0⟩, ⟨reg (c.regAllBase + 1), 0⟩, ⟨reg (c.regAllBase + 2), 0⟩, ⟨reg (c.regAllBase + 3), 0⟩,
       ⟨reg c.regMode2, c.mode2Init⟩, ⟨reg c.regMode1, c.mode1Init⟩, ⟨reg c.regMode1, old⟩,
       ⟨reg c.regMode1, old ||| c.mode1Sleep⟩, ⟨reg c.regPrescale, BitVec.ofNat 8 (prescaleVal c).toNat⟩,
       ⟨reg c.regMode1, old⟩, ⟨reg c.regMode1, old ||| c.mode1Restart⟩]
    ∃ t, exec .actInit s = .next t ∧ t.trace = s.trace ++ ws ∧ t.modeCache = old ∧ sameRanging s t ∧ samePorts s t ∧
      (∀ r : Byte, (∀ w ∈ ws, w.reg ≠ r) → Memory.read t.controller r = Memory.read s.controller r) ∧
      ∃ u, exec .actInit t = .next u ∧ u.trace = s.trace ++ ws ++ ws) ∧
  (∀ (s t : State) (a b p n : Nat), s.cfg = Config.withChannels a b p n → exec .actInit s = .next t →
    t.modeCache = 0x01 ∧
    t.trace = s.trace ++ [⟨0xFA, 0x00⟩, ⟨0xFB, 0x00⟩, ⟨0xFC, 0x00⟩, ⟨0xFD, 0x00⟩, ⟨0x01, 0x04⟩, ⟨0x00, 0x01⟩,
      ⟨0x00, 0x01⟩, ⟨0x00, 0x11⟩, ⟨0xFE, 0x65⟩, ⟨0x00, 0x01⟩, ⟨0x00, 0x81⟩])

/-- 41_actuator.md R126: SET_STEER's 4 writes to the steering channel; no block state changes and no other register is written;
the extreme angles are clamped; its word; and the rule's example. -/
def Obligations.SetSteerWritesTheSteeringChannel : Prop :=
  (∀ (c : Config) (angle : Operand), (Instr.setSteer angle).wellFormed c = true →
    decode c (0x04#8 ++ 0#32 ++ angle) = .ok (.setSteer angle)) ∧
  (∀ (s : State) (angle : Operand), s.cfg.WellFormed →
    let c := s.cfg
    let p := count16 (steerPwm c (signedValue angle))
    let reg : Nat → Byte := fun k => BitVec.ofNat 8 (c.regLedBase + 4 * c.chSteer + k)
    ∃ t, exec (.setSteer angle) s = .next t ∧
      t.trace = s.trace ++ [⟨reg 0, 0⟩, ⟨reg 1, 0⟩, ⟨reg 2, lo8 p⟩, ⟨reg 3, hi8 p⟩] ∧
      sameBlock s t ∧ samePorts s t ∧
      (∀ r : Byte, r ≠ reg 0 → r ≠ reg 1 → r ≠ reg 2 → r ≠ reg 3 →
        Memory.read t.controller r = Memory.read s.controller r)) ∧
  (∀ a b p n, steerPwm (Config.withChannels a b p n) (signedValue 0x80000000) = 520 ∧
    steerPwm (Config.withChannels a b p n) (signedValue 0x7FFFFFFF) = 340 ∧
    steerPwm (Config.withChannels a b p n) (signedValue 150) = steerPwm (Config.withChannels a b p n) (signedValue 100)) ∧
  (∃ t, exec (.setSteer 0) State.reset = .next t ∧ t.trace.map BusWrite.val = [0x00, 0x00, 0xAE, 0x01])

/-- 41_actuator.md R128: SET_THROTTLE's 12 writes, the direction chosen by the sign of the commanded speed and the duty from
its clamped magnitude; no block state changes and no other channel's register is written; and its word. -/
def Obligations.SetThrottleSelectsDirectionThenDuty : Prop :=
  (∀ (c : Config) (speed : Operand), (Instr.setThrottle speed).wellFormed c = true →
    decode c (0x05#8 ++ 0#32 ++ speed) = .ok (.setThrottle speed)) ∧
  ∀ (s : State) (speed : Operand), s.cfg.WellFormed →
    let c := s.cfg
    let v := signedValue speed
    let full : Nat → CountPair → List BusWrite := fun ch q => writeChannel c ch (count16 q.on) (count16 q.off)
    let duty := min v.natAbs c.cmdLimit * c.dutyMax / c.cmdLimit
    let ws : List BusWrite :=
      (if 0 < v then full c.chDirNeg c.fullOff ++ full c.chDirPos c.fullOn
        else if v < 0 then full c.chDirPos c.fullOff ++ full c.chDirNeg c.fullOn
        else full c.chDirPos c.fullOff ++ full c.chDirNeg c.fullOff) ++ writeChannel c c.chPwm 0 (count16 duty)
    ∃ t, exec (.setThrottle speed) s = .next t ∧ t.trace = s.trace ++ ws ∧ ws.length = 12 ∧
      (v = 0 → duty = 0) ∧ sameBlock s t ∧ samePorts s t ∧
      (∀ r : Byte, (∀ ch ∈ [c.chDirPos, c.chDirNeg, c.chPwm], ∀ k < 4, r ≠ BitVec.ofNat 8 (c.regLedBase + 4 * ch + k)) →
        Memory.read t.controller r = Memory.read s.controller r)

/-- The bytes of SET_THROTTLE's trace with the defaults, for any bound channels (spec/95_test_vectors.md T-1, T-2, T-3, T-10). -/
def Obligations.SetThrottleBytesWithTheDefaults : Prop :=
  ∀ (s : State) (a b p n : Nat), channelsBound a b p n → s.cfg = Config.withChannels a b p n →
    let chan : Nat → List Byte → List BusWrite := fun ch bytes =>
      List.zipWith (fun k v => ⟨BitVec.ofNat 8 (6 + 4 * ch + k), v⟩) [0, 1, 2, 3] bytes
    let on := [0x00, 0x10, 0x00, 0x00]
    let off := [0x00, 0x00, 0x00, 0x10]
    (∃ t, exec (.setThrottle 50) s = .next t ∧
      t.trace = s.trace ++ (chan n off ++ chan p on ++ chan b [0x00, 0x00, 0xFF, 0x07])) ∧
    (∃ t, exec (.setThrottle (BitVec.ofInt 32 (-50))) s = .next t ∧
      t.trace = s.trace ++ (chan p off ++ chan n on ++ chan b [0x00, 0x00, 0xFF, 0x07])) ∧
    (∃ t, exec (.setThrottle 0) s = .next t ∧
      t.trace = s.trace ++ (chan p off ++ chan n off ++ chan b [0x00, 0x00, 0x00, 0x00])) ∧
    (∃ t, exec (.setThrottle 0x80000000) s = .next t ∧
      t.trace = s.trace ++ (chan p off ++ chan n on ++ chan b [0x00, 0x00, 0xFF, 0x0F]))

/-- 41_actuator.md R131: SET_STEER and SET_THROTTLE emit the same writes before any ACT_INIT as after it. -/
def Obligations.SetOperationsIgnoreInitialisation : Prop :=
  ∀ (s u t v : State) (i : Instr), (∃ a, i = .setSteer a ∨ i = .setThrottle a) →
    exec i s = .next t → exec .actInit s = .next u → exec i u = .next v →
      ∃ ws, t.trace = s.trace ++ ws ∧ v.trace = u.trace ++ ws

/-! ### Drive and the failsafe -/

/-- 42_drive_failsafe.md R161 and R162: when the failsafe holds, the effective throttle it gives, and that the clamp does not
change its verdict. -/
def Obligations.FailsafeHoldsBelowTenCentimetresForward : Prop :=
  (∀ (c : Config) (dist : Nat) (throttle : Int),
    failsafe c dist throttle = true ↔ 0 < dist ∧ dist < c.failsafeCm ∧ throttle > 0) ∧
  (∀ a b p n dist throttle, failsafe (Config.withChannels a b p n) dist throttle = true ↔
    (1 ≤ dist ∧ dist ≤ 9) ∧ 1 ≤ throttle) ∧
  (∀ (c : Config) (dist : Nat) (throttle : Int), 1 ≤ c.cmdLimit →
    failsafe c dist (clamp throttle (-c.cmdLimit) c.cmdLimit) = failsafe c dist throttle) ∧
  (∀ (c : Config) (dist : Nat) (throttle : Int),
    effectiveThrottle c dist throttle = if 0 < dist ∧ dist < c.failsafeCm ∧ throttle > 0 then 0 else throttle)

/-- 42_drive_failsafe.md R160: DRIVE is SET_THROTTLE of the effective throttle and then SET_STEER, 16 writes; no block state
changes; its word; and the rule's example. -/
def Obligations.DriveIsThrottleThenSteer : Prop :=
  (∀ (c : Config) (throttle steer : Operand), (Instr.drive throttle steer).wellFormed c = true →
    decode c (0x06#8 ++ throttle ++ steer) = .ok (.drive throttle steer)) ∧
  (∀ (s : State) (throttle steer : Operand),
    exec (.drive throttle steer) s =
      execAll [.setThrottle (if 0 < s.distanceCm ∧ s.distanceCm < s.cfg.failsafeCm ∧ 0 < throttle.toInt then 0
        else throttle), .setSteer steer] s) ∧
  (∀ (s : State) (throttle steer : Operand), s.cfg.WellFormed →
    ∃ t, exec (.drive throttle steer) s = .next t ∧ t.bus.length = s.bus.length + 16 ∧ sameBlock s t ∧ samePorts s t ∧
      (∀ r : Byte, (∀ ch ∈ [s.cfg.chDirPos, s.cfg.chDirNeg, s.cfg.chPwm, s.cfg.chSteer], ∀ k < 4,
          r ≠ BitVec.ofNat 8 (s.cfg.regLedBase + 4 * ch + k)) →
        Memory.read t.controller r = Memory.read s.controller r)) ∧
  (∃ t, exec (.drive 50 (BitVec.ofInt 32 (-100))) { State.reset with distanceCm := 5 } = .next t ∧
    t.trace = [⟨0x0E, 0x00⟩, ⟨0x0F, 0x00⟩, ⟨0x10, 0x00⟩, ⟨0x11, 0x10⟩, ⟨0x12, 0x00⟩, ⟨0x13, 0x00⟩, ⟨0x14, 0x00⟩,
      ⟨0x15, 0x10⟩, ⟨0x0A, 0x00⟩, ⟨0x0B, 0x00⟩, ⟨0x0C, 0x00⟩, ⟨0x0D, 0x00⟩, ⟨0x06, 0x00⟩, ⟨0x07, 0x00⟩, ⟨0x08, 0x08⟩,
      ⟨0x09, 0x02⟩])

/-- With an obstacle at 1 to 9 cm and a forward command, a DRIVE whose writes all succeed leaves both direction channels fully
off and the duty 0 in the controller's registers, for any bound channels (42_drive_failsafe.md R160, R161; 41_actuator.md
R128). The registers are the image of the delivered bytes, which is the model's choice (log 6, log 16). -/
def Obligations.FailsafeLeavesTheMotorCoasting : Prop :=
  ∀ (s t : State) (throttle steer : Operand) (a b p n : Nat) (later : List BusOutcome),
    channelsBound a b p n → s.cfg = Config.withChannels a b p n → s.busOutcomes = List.replicate 16 .ok ++ later →
    1 ≤ s.distanceCm → s.distanceCm ≤ 9 → 0 < signedValue throttle → exec (.drive throttle steer) s = .next t →
      let holds : Nat → List Byte → Prop := fun ch bytes =>
        ∀ k < 4, Memory.read t.controller (BitVec.ofNat 8 (6 + 4 * ch + k)) = bytes[k]?
      holds p [0x00, 0x00, 0x00, 0x10] ∧ holds n [0x00, 0x00, 0x00, 0x10] ∧ holds b [0x00, 0x00, 0x00, 0x00]

/-- While every write succeeds, no step, cut by `rst` or not, leaves both direction channels with the full-on flag set: the
channel to turn off is written before the one to turn on (41_actuator.md R128). The registers are the model's image of the
delivered bytes, the others free (log 6, log 16). -/
def Obligations.BridgeStaysSafeWhileWritesSucceed : Prop :=
  ∀ (s t : State) (a b p n : Nat) (later : List BusOutcome),
    channelsBound a b p n → s.cfg = Config.withChannels a b p n → s.busOutcomes = List.replicate 16 .ok ++ later →
    bridgeSafe s → step s = .next t → bridgeSafe t

/-- 70_reset_and_hazards.md R240's derived examples, in the controller's registers: a lost off-high or off-low byte tears the
steering count, and a lost FULL_OFF leaves both direction channels fully on. -/
def Obligations.TornChannelExamples : Prop :=
  (∃ t, execAll [.setSteer 0, .setSteer (BitVec.ofInt 32 (-100))]
      { State.reset with busOutcomes := List.replicate 7 .ok ++ [.timeout] } = .next t ∧
    Memory.read t.controller 0x08 = some 0x08 ∧ Memory.read t.controller 0x09 = some 0x01) ∧
  (∃ t, execAll [.setSteer 0, .setSteer (BitVec.ofInt 32 (-100))]
      { State.reset with busOutcomes := List.replicate 6 .ok ++ [.timeout, .ok] } = .next t ∧
    Memory.read t.controller 0x08 = some 0xAE ∧ Memory.read t.controller 0x09 = some 0x02) ∧
  (∃ t, execAll [.setThrottle 50, .setThrottle (BitVec.ofInt 32 (-50))]
      { State.reset with busOutcomes := List.replicate 12 .ok ++ List.replicate 4 .timeout ++ List.replicate 8 .ok } = .next t ∧
    ¬ bridgeSafe t)

/-! ### The device bus -/

/-- 20_memory.md R52 and 60_exceptions.md R206, one write: an OK write's byte is in its register, a timed-out one changes no
register, no other register changes, the block's state does not change, and the write is recorded with its outcome. -/
def Obligations.BusWriteReachesItsRegisterOnOk : Prop :=
  ∀ (s : State) (w : BusWrite),
    (s.nextOutcome = .ok → Memory.read (s.busWrite w).controller w.reg = some w.val) ∧
    (s.nextOutcome = .timeout → (s.busWrite w).controller = s.controller) ∧
    (∀ r : Byte, r ≠ w.reg → Memory.read (s.busWrite w).controller r = Memory.read s.controller r) ∧
    sameBlock s (s.busWrite w) ∧ samePorts s (s.busWrite w) ∧
    (s.busWrite w).bus = s.bus ++ [⟨w, s.nextOutcome⟩]

/-- 20_memory.md R51: an operation writes only the registers 10_state.md R33 lists for the configured channels. -/
def Obligations.OnlyListedRegistersAreWritten : Prop :=
  ∀ (i : Instr) (s t : State), exec i s = .next t →
    ∃ ws, t.trace = s.trace ++ ws ∧
      (∀ r : Byte, (∀ w ∈ ws, w.reg ≠ r) → Memory.read t.controller r = Memory.read s.controller r) ∧
      ∀ w ∈ ws,
        (w.reg ∈ [s.cfg.regMode1, s.cfg.regMode2, s.cfg.regPrescale, s.cfg.regAllBase, s.cfg.regAllBase + 1,
            s.cfg.regAllBase + 2, s.cfg.regAllBase + 3].map (BitVec.ofNat 8) ∧ i = .actInit) ∨
        (∃ ch ∈ [s.cfg.chSteer, s.cfg.chPwm, s.cfg.chDirPos, s.cfg.chDirNeg], ∃ k < 4,
          w.reg = BitVec.ofNat 8 (s.cfg.regLedBase + 4 * ch + k) ∧ i ≠ .actInit)

/-- The number of writes of each operation (70_reset_and_hazards.md R245), and one outcome drawn for each. The
counter of draws is the model's own (log 5). -/
def Obligations.WritesPerOperation : Prop :=
  ∀ (i : Instr) (s t : State), exec i s = .next t →
    let k := match i.name with
      | .echoCapture => 0
      | .distRead => 0
      | .actInit => 11
      | .setSteer => 4
      | .setThrottle => 12
      | .drive => 16
    t.bus.length = s.bus.length + k ∧ t.draws = s.draws + k ∧ t.busOutcomes = s.busOutcomes.drop k

/-- 60_exceptions.md R206, over whole runs: two runs that differ only in the bus outcomes, and so in what reached the
controller, have the same bus-write trace, the same block state, the same results and the same mark after every number of
turns. -/
def Obligations.RunsAreBlindToBusOutcomes : Prop :=
  ∀ (n : Nat) (s t : State), sameUpToBusOutcomes s t → sameUpToBusOutcomes (turns n s) (turns n t)

/-- 10_state.md R32 and 90_conflicts.md C6: the mode cache's value is never observable: runs that differ in it alone differ in
it alone. -/
def Obligations.ModeCacheIsNeverObservable : Prop :=
  ∀ (n : Nat) (s : State) (m : Byte),
    ∃ m', turns n { s with modeCache := m } = { turns n s with modeCache := m' }

/-- Every step keeps this: the controller's registers hold exactly what the writes with outcome OK wrote, in order
(60_exceptions.md R206, 20_memory.md R62). -/
def Obligations.StepKeepsControllerHoldsDelivered : Prop :=
  ∀ s t : State, controllerHoldsDelivered s → step s = .next t → controllerHoldsDelivered t

/-- Every step keeps the canonical form of the controller's registers (20_memory.md R51: 8-bit addresses; the form is the
model's, log 6). -/
def Obligations.StepKeepsControllerCanonical : Prop :=
  ∀ s t : State, Memory.wf s.controller → step s = .next t → Memory.wf t.controller

/-- The invariants hold right after reset. The channels bound there are the model's choice (log 2). -/
def Obligations.ResetMeetsTheInvariants : Prop :=
  rangingInRange State.reset ∧ controllerHoldsDelivered State.reset ∧ Memory.wf State.reset.controller ∧
    behaves State.reset ∧ State.reset.cfg.WellFormed

/-! ### Assembly text -/

/-- 30_encoding.md R79: the pseudo-operations and their expansions; `measure` from AWAITING_RISE is one measurement. -/
def Obligations.PseudoOperationsExpand : Prop :=
  (∀ c : Config, assembleOp c "coast" [] = assembleOp c "set_throttle" [['0']] ∧
    assembleOp c "center" [] = assembleOp c "set_steer" [['0']]) ∧
  (∀ (c : Config) (r f : List Char),
    assembleOp c "measure" [r, f] =
      (assembleOp c "echo_capture" [r]).bind fun x => (assembleOp c "echo_capture" [f]).map fun y => x ++ y) ∧
  (∀ (s : State) (r f : Operand), s.cfg.WellFormed → s.phase = .awaitingRise →
    ∃ t, execAll [.echoCapture r, .echoCapture f] s = .next t ∧ t.phase = .awaitingRise ∧ t.tRise = r.toNat ∧
      t.tFall = f.toNat)

/-! ### Ranging and reset, step by step -/

/-- 40_ranging.md R108, over steps: a step that performs an operation other than ECHO_CAPTURE keeps RNG's state, whatever else it
does; and every step, capture and reset included, keeps the ranging states of two machines equal that take the same event under
the same configuration. The queue of events is the model's choice (log 1). -/
def Obligations.StepKeepsRangingBetweenCaptures : Prop :=
  (∀ (s t : State) (by_ : Issuer) (w : OpWord) (rest : List PortEvent) (i : Instr),
    s.opQueue = .op by_ w :: rest → decode s.cfg w = .ok i → isCapture i = false → step s = .next t → sameRanging s t) ∧
  (∀ s s' t t' : State, sameRanging s s' → s'.cfg = s.cfg → s'.opQueue = s.opQueue →
    step s = .next t → step s' = .next t' → sameRanging t t')

/-- A refused word does not take with it the `rst` that was to cut it: the word is refused (60_exceptions.md R203), and the next
turn resets the block (70_reset_and_hazards.md R230). No rule says when such an `rst` lands; this is the model's choice (log 22,
log 7). -/
def Obligations.RefusedWordKeepsItsReset : Prop :=
  ∀ (s : State) (by_ : Issuer) (w : OpWord) (last : Nat) (rest : List PortEvent),
    s.opQueue = .opCutByRst by_ w last :: rest → (¬ s.cfg.WellFormed ∨ ∃ r, decode s.cfg w = .error r) →
      (∃ r, step s = .refused r) ∧ turn s = { s with opQueue := .rst :: rest, refusedMark := true } ∧
      turns 2 s = { s with
        opQueue := rest
        refusedMark := true
        phase := .awaitingRise
        tRise := 0
        tFall := 0
        distanceCm := 0
        modeCache := 0x00 }
end

