-- ==== Sys2Proof/Laws/Memory.lean ====
section
/-! SUPPORT. The controller's registers: read after write, every other register left alone, and the canonical form kept by
every operation. -/

namespace Sys2Proof.Machine

theorem Memory.read_write_same (m : Memory) (reg val : Byte) : Memory.read (Memory.write m reg val) reg = some val := by
  induction m with
  | nil => simp [Memory.write, Memory.read]
  | cons c m ih =>
    obtain ⟨a, v⟩ := c
    unfold Memory.write
    split
    · simp [Memory.read]
    · split
      · rename_i h; simp [Memory.read, h.symm]
      · rename_i h; simp [Memory.read, Ne.symm h, ih]

theorem Memory.read_write_other (m : Memory) (reg reg' val : Byte) (h : reg' ≠ reg) :
    Memory.read (Memory.write m reg val) reg' = Memory.read m reg' := by
  have hn : reg.toNat ≠ reg'.toNat := fun e => h (BitVec.eq_of_toNat_eq e.symm)
  induction m with
  | nil => simp [Memory.write, Memory.read, hn]
  | cons c m ih =>
    obtain ⟨a, v⟩ := c
    unfold Memory.write
    split
    · simp [Memory.read, hn]
    · split
      · rename_i e; subst e; simp [Memory.read, hn]
      · simp [Memory.read, ih]

/-- Every address a write lists is the written one or was listed before. -/
theorem Memory.mem_write {m : Memory} {reg val : Byte} {x : Host.Cell} (hx : x ∈ Memory.write m reg val) :
    x.1 = reg.toNat ∨ x ∈ m := by
  induction m with
  | nil => simp_all [Memory.write]
  | cons c m ih =>
    obtain ⟨a, v⟩ := c
    unfold Memory.write at hx
    split at hx
    · rcases List.mem_cons.1 hx with rfl | h
      · exact .inl rfl
      · exact .inr h
    · split at hx
      · rename_i e
        rcases List.mem_cons.1 hx with rfl | h
        · exact .inl e.symm
        · exact .inr (List.mem_cons_of_mem _ h)
      · rcases List.mem_cons.1 hx with rfl | h
        · exact .inr List.mem_cons_self
        · exact (ih h).imp_right (List.mem_cons_of_mem _)

/-- A delivered write keeps the canonical form. -/
theorem Memory.write_wf {m : Memory} (hm : Memory.wf m) (reg val : Byte) : Memory.wf (Memory.write m reg val) := by
  refine ⟨?_, fun x hx => ?_⟩
  · obtain ⟨hp, -⟩ := hm
    induction m with
    | nil => simp [Memory.write]
    | cons c m ih =>
      obtain ⟨a, v⟩ := c
      obtain ⟨h1, h2⟩ := List.pairwise_cons.1 hp
      unfold Memory.write
      split
      · rename_i hlt
        refine List.pairwise_cons.2 ⟨fun x hx => ?_, hp⟩
        rcases List.mem_cons.1 hx with rfl | h
        · exact hlt
        · exact lt_trans hlt (h1 x h)
      · split
        · exact List.pairwise_cons.2 ⟨h1, h2⟩
        · refine List.pairwise_cons.2 ⟨fun x hx => ?_, ih h2⟩
          rcases Memory.mem_write hx with h | h
          · simp only; omega
          · exact h1 x h
  · rcases Memory.mem_write hx with h | h
    · rw [h]; exact reg.isLt
    · exact hm.2 x h

/-- A bus write keeps the canonical form, whatever its outcome. -/
theorem Memory.deliver_wf {m : Memory} (hm : Memory.wf m) (w : BusWrite) (o : BusOutcome) :
    Memory.wf (Memory.deliver m w o) := by
  cases o
  · exact Memory.write_wf hm _ _
  · exact hm

theorem Memory.read_deliver_ok (m : Memory) (w : BusWrite) : Memory.read (Memory.deliver m w .ok) w.reg = some w.val :=
  Memory.read_write_same ..

@[simp] theorem Memory.deliver_timeout (m : Memory) (w : BusWrite) : Memory.deliver m w .timeout = m := rfl

theorem Memory.read_deliver_other (m : Memory) (w : BusWrite) (o : BusOutcome) (reg : Byte) (h : reg ≠ w.reg) :
    Memory.read (Memory.deliver m w o) reg = Memory.read m reg := by
  cases o
  · exact Memory.read_write_other _ _ _ _ h
  · rfl

end Sys2Proof.Machine
end

