-- ==== Sys2Proof/Laws/State.lean ====
section
/-! SUPPORT. One lemma per field for every update of the state, so that no proof unfolds a record update. -/

namespace Sys2Proof.Machine

section busWrite
variable (s : State) (w : BusWrite)

@[simp] theorem State.busWrite_cfg : (s.busWrite w).cfg = s.cfg := rfl
@[simp] theorem State.busWrite_phase : (s.busWrite w).phase = s.phase := rfl
@[simp] theorem State.busWrite_tRise : (s.busWrite w).tRise = s.tRise := rfl
@[simp] theorem State.busWrite_tFall : (s.busWrite w).tFall = s.tFall := rfl
@[simp] theorem State.busWrite_distanceCm : (s.busWrite w).distanceCm = s.distanceCm := rfl
@[simp] theorem State.busWrite_modeCache : (s.busWrite w).modeCache = s.modeCache := rfl
@[simp] theorem State.busWrite_opQueue : (s.busWrite w).opQueue = s.opQueue := rfl
@[simp] theorem State.busWrite_results : (s.busWrite w).results = s.results := rfl
@[simp] theorem State.busWrite_refusedMark : (s.busWrite w).refusedMark = s.refusedMark := rfl
@[simp] theorem State.busWrite_busOutcomes : (s.busWrite w).busOutcomes = s.busOutcomes.tail := rfl
@[simp] theorem State.busWrite_draws : (s.busWrite w).draws = s.draws + 1 := rfl
@[simp] theorem State.busWrite_controller :
    (s.busWrite w).controller = Memory.deliver s.controller w s.nextOutcome := rfl
@[simp] theorem State.busWrite_bus : (s.busWrite w).bus = s.bus ++ [⟨w, s.nextOutcome⟩] := rfl

end busWrite

section blockReset
variable (s : State)

@[simp] theorem State.blockReset_cfg : s.blockReset.cfg = s.cfg := rfl
@[simp] theorem State.blockReset_phase : s.blockReset.phase = .awaitingRise := rfl
@[simp] theorem State.blockReset_tRise : s.blockReset.tRise = 0 := rfl
@[simp] theorem State.blockReset_tFall : s.blockReset.tFall = 0 := rfl
@[simp] theorem State.blockReset_distanceCm : s.blockReset.distanceCm = 0 := rfl
@[simp] theorem State.blockReset_modeCache : s.blockReset.modeCache = 0 := rfl
@[simp] theorem State.blockReset_opQueue : s.blockReset.opQueue = s.opQueue := rfl
@[simp] theorem State.blockReset_busOutcomes : s.blockReset.busOutcomes = s.busOutcomes := rfl
@[simp] theorem State.blockReset_draws : s.blockReset.draws = s.draws := rfl
@[simp] theorem State.blockReset_controller : s.blockReset.controller = s.controller := rfl
@[simp] theorem State.blockReset_bus : s.blockReset.bus = s.bus := rfl
@[simp] theorem State.blockReset_results : s.blockReset.results = s.results := rfl
@[simp] theorem State.blockReset_refusedMark : s.blockReset.refusedMark = s.refusedMark := rfl

end blockReset

section returnResult
variable (s : State) (v : Nat)

@[simp] theorem State.returnResult_cfg : (s.returnResult v).cfg = s.cfg := rfl
@[simp] theorem State.returnResult_phase : (s.returnResult v).phase = s.phase := rfl
@[simp] theorem State.returnResult_tRise : (s.returnResult v).tRise = s.tRise := rfl
@[simp] theorem State.returnResult_tFall : (s.returnResult v).tFall = s.tFall := rfl
@[simp] theorem State.returnResult_distanceCm : (s.returnResult v).distanceCm = s.distanceCm := rfl
@[simp] theorem State.returnResult_modeCache : (s.returnResult v).modeCache = s.modeCache := rfl
@[simp] theorem State.returnResult_opQueue : (s.returnResult v).opQueue = s.opQueue := rfl
@[simp] theorem State.returnResult_busOutcomes : (s.returnResult v).busOutcomes = s.busOutcomes := rfl
@[simp] theorem State.returnResult_draws : (s.returnResult v).draws = s.draws := rfl
@[simp] theorem State.returnResult_controller : (s.returnResult v).controller = s.controller := rfl
@[simp] theorem State.returnResult_bus : (s.returnResult v).bus = s.bus := rfl
@[simp] theorem State.returnResult_results : (s.returnResult v).results = s.results ++ [v] := rfl
@[simp] theorem State.returnResult_refusedMark : (s.returnResult v).refusedMark = s.refusedMark := rfl

end returnResult

section markRefused
variable (s : State)

@[simp] theorem State.markRefused_cfg : s.markRefused.cfg = s.cfg := rfl
@[simp] theorem State.markRefused_phase : s.markRefused.phase = s.phase := rfl
@[simp] theorem State.markRefused_tRise : s.markRefused.tRise = s.tRise := rfl
@[simp] theorem State.markRefused_tFall : s.markRefused.tFall = s.tFall := rfl
@[simp] theorem State.markRefused_distanceCm : s.markRefused.distanceCm = s.distanceCm := rfl
@[simp] theorem State.markRefused_modeCache : s.markRefused.modeCache = s.modeCache := rfl
@[simp] theorem State.markRefused_opQueue : s.markRefused.opQueue = eventsAfterRefusal s.opQueue := rfl
@[simp] theorem State.markRefused_busOutcomes : s.markRefused.busOutcomes = s.busOutcomes := rfl
@[simp] theorem State.markRefused_draws : s.markRefused.draws = s.draws := rfl
@[simp] theorem State.markRefused_controller : s.markRefused.controller = s.controller := rfl
@[simp] theorem State.markRefused_bus : s.markRefused.bus = s.bus := rfl
@[simp] theorem State.markRefused_results : s.markRefused.results = s.results := rfl
@[simp] theorem State.markRefused_refusedMark : s.markRefused.refusedMark = true := rfl

end markRefused

section eventsAfterRefusal
variable (by_ : Issuer) (w : OpWord) (last : Nat) (rest : List PortEvent)

@[simp] theorem eventsAfterRefusal_nil : eventsAfterRefusal [] = [] := rfl
@[simp] theorem eventsAfterRefusal_op : eventsAfterRefusal (.op by_ w :: rest) = rest := rfl
@[simp] theorem eventsAfterRefusal_opCutByRst : eventsAfterRefusal (.opCutByRst by_ w last :: rest) = .rst :: rest := rfl
@[simp] theorem eventsAfterRefusal_rst : eventsAfterRefusal (.rst :: rest) = rest := rfl

end eventsAfterRefusal

section presentWord
variable (w : OpWord) (s : State)

@[simp] theorem presentWord_opQueue : (presentWord w s).opQueue = .op .controlTask w :: s.opQueue := rfl
@[simp] theorem presentWord_cfg : (presentWord w s).cfg = s.cfg := rfl

end presentWord

/-! A capture leaves everything but RNG's own fields. -/

section capture
variable (s : State) (tick : Nat)

@[simp] theorem State.capture_cfg : (s.capture tick).cfg = s.cfg := by unfold State.capture; split <;> rfl
@[simp] theorem State.capture_modeCache : (s.capture tick).modeCache = s.modeCache := by
  unfold State.capture; split <;> rfl
@[simp] theorem State.capture_opQueue : (s.capture tick).opQueue = s.opQueue := by unfold State.capture; split <;> rfl
@[simp] theorem State.capture_busOutcomes : (s.capture tick).busOutcomes = s.busOutcomes := by
  unfold State.capture; split <;> rfl
@[simp] theorem State.capture_draws : (s.capture tick).draws = s.draws := by unfold State.capture; split <;> rfl
@[simp] theorem State.capture_controller : (s.capture tick).controller = s.controller := by
  unfold State.capture; split <;> rfl
@[simp] theorem State.capture_bus : (s.capture tick).bus = s.bus := by unfold State.capture; split <;> rfl
@[simp] theorem State.capture_results : (s.capture tick).results = s.results := by unfold State.capture; split <;> rfl
@[simp] theorem State.capture_refusedMark : (s.capture tick).refusedMark = s.refusedMark := by
  unfold State.capture; split <;> rfl

/-- The first capture of a measurement (40_ranging.md R102). -/
theorem State.capture_awaitingRise (h : s.phase = .awaitingRise) :
    s.capture tick = { s with tRise := tick, phase := .awaitingFall } := by unfold State.capture; rw [h]

/-- The second capture of a measurement (40_ranging.md R102). -/
theorem State.capture_awaitingFall (h : s.phase = .awaitingFall) :
    s.capture tick = { s with
      tFall := tick
      distanceCm := ticksToCm s.cfg (elapsed s.cfg s.tRise tick)
      phase := .awaitingRise } := by unfold State.capture; rw [h]

end capture

end Sys2Proof.Machine
end

