-- ==== Sys2Proof/Laws/Bus.lean ====
section
/-! SUPPORT. What emitting a list of bus writes does: once for every field. -/

namespace Sys2Proof.Machine

@[simp] theorem State.emit_nil (s : State) : s.emit [] = s := rfl

theorem State.emit_cons (s : State) (w : BusWrite) (ws : List BusWrite) : s.emit (w :: ws) = (s.busWrite w).emit ws := rfl

theorem State.emit_append (s : State) (ws vs : List BusWrite) : s.emit (ws ++ vs) = (s.emit ws).emit vs :=
  List.foldl_append ..

/-- A field that no bus write changes is unchanged by any list of them. -/
theorem State.emit_field {α : Type} (f : State → α) (hf : ∀ s w, f (s.busWrite w) = f s) (s : State)
    (ws : List BusWrite) : f (s.emit ws) = f s := by
  induction ws generalizing s with
  | nil => rfl
  | cons w ws ih => rw [State.emit_cons, ih, hf]

section fields
variable (s : State) (ws : List BusWrite)

@[simp] theorem State.emit_cfg : (s.emit ws).cfg = s.cfg := State.emit_field _ (fun _ _ => rfl) ..
@[simp] theorem State.emit_phase : (s.emit ws).phase = s.phase := State.emit_field _ (fun _ _ => rfl) ..
@[simp] theorem State.emit_tRise : (s.emit ws).tRise = s.tRise := State.emit_field _ (fun _ _ => rfl) ..
@[simp] theorem State.emit_tFall : (s.emit ws).tFall = s.tFall := State.emit_field _ (fun _ _ => rfl) ..
@[simp] theorem State.emit_distanceCm : (s.emit ws).distanceCm = s.distanceCm := State.emit_field _ (fun _ _ => rfl) ..
@[simp] theorem State.emit_modeCache : (s.emit ws).modeCache = s.modeCache := State.emit_field _ (fun _ _ => rfl) ..
@[simp] theorem State.emit_opQueue : (s.emit ws).opQueue = s.opQueue := State.emit_field _ (fun _ _ => rfl) ..
@[simp] theorem State.emit_results : (s.emit ws).results = s.results := State.emit_field _ (fun _ _ => rfl) ..
@[simp] theorem State.emit_refusedMark : (s.emit ws).refusedMark = s.refusedMark :=
  State.emit_field _ (fun _ _ => rfl) ..

@[simp] theorem State.emit_busOutcomes : (s.emit ws).busOutcomes = s.busOutcomes.drop ws.length := by
  induction ws generalizing s with
  | nil => simp
  | cons w ws ih => simp [State.emit_cons, ih, List.drop_tail]

@[simp] theorem State.emit_draws : (s.emit ws).draws = s.draws + ws.length := by
  induction ws generalizing s with
  | nil => rfl
  | cons w ws ih => rw [State.emit_cons, ih]; simp; omega

@[simp] theorem State.emit_bus_length : (s.emit ws).bus.length = s.bus.length + ws.length := by
  induction ws generalizing s with
  | nil => rfl
  | cons w ws ih => rw [State.emit_cons, ih]; simp; omega

@[simp] theorem State.trace_busWrite (w : BusWrite) : (s.busWrite w).trace = s.trace ++ [w] := by
  simp [State.trace]

@[simp] theorem State.trace_emit : (s.emit ws).trace = s.trace ++ ws := by
  induction ws generalizing s with
  | nil => simp
  | cons w ws ih => rw [State.emit_cons, ih]; simp

end fields

/-- A register that no write of the list names keeps what it held (20_memory.md R51). -/
theorem State.emit_read_other (s : State) (ws : List BusWrite) (reg : Byte) (h : ∀ w ∈ ws, w.reg ≠ reg) :
    Memory.read (s.emit ws).controller reg = Memory.read s.controller reg := by
  induction ws generalizing s with
  | nil => rfl
  | cons w ws ih =>
    rw [State.emit_cons, ih _ fun v hv => h v (List.mem_cons_of_mem _ hv)]
    exact Memory.read_deliver_other _ _ _ _ (h w List.mem_cons_self).symm

/-- Bus writes keep the canonical form of the controller's registers. -/
theorem State.emit_wf (s : State) (ws : List BusWrite) (h : Memory.wf s.controller) :
    Memory.wf (s.emit ws).controller := by
  induction ws generalizing s with
  | nil => exact h
  | cons w ws ih => exact ih _ (Memory.deliver_wf h _ _)

/-- The controller's registers and the bus record move together. -/
theorem State.emit_controller (s : State) (ws : List BusWrite) :
    ∃ ts, (s.emit ws).bus = s.bus ++ ts ∧ ts.map BusTxn.write = ws ∧
      (s.emit ws).controller = ts.foldl (fun m t => Memory.deliver m t.write t.outcome) s.controller := by
  induction ws generalizing s with
  | nil => exact ⟨[], by simp⟩
  | cons w ws ih =>
    obtain ⟨ts, h1, h2, h3⟩ := ih (s.busWrite w)
    exact ⟨⟨w, s.nextOutcome⟩ :: ts, by simp [State.emit_cons, h1], by simp [h2], by simp [State.emit_cons, h3]⟩

end Sys2Proof.Machine
end

