-- ==== Sys2Proof/Laws/Exec.lean ====
section
/-! SUPPORT. What each shared operation can answer, said once: a performed operation, each meaning, one event, one turn. -/

namespace Sys2Proof.Machine

theorem State.perform_of_wellFormed {s : State} (h : s.cfg.WellFormed) (t : State) : s.perform t = .next t := if_pos h

theorem State.perform_of_illFormed {s : State} (h : ¬ s.cfg.WellFormed) (t : State) :
    s.perform t = .refused .illFormedConfig := if_neg h

/-- A performed operation answers its state, under a well-formed configuration only. -/
theorem State.perform_eq_next {s t u : State} : s.perform t = .next u ↔ s.cfg.WellFormed ∧ t = u := by
  unfold State.perform
  split
  · rename_i h; exact ⟨fun e => ⟨h, Host.Outcome.next.inj e⟩, fun e => congrArg _ e.2⟩
  · rename_i h; exact ⟨nofun, fun e => absurd e.1 h⟩

/-- What a performed operation makes of a state. -/
def effect : Instr → State → State
  | .echoCapture tick, s => s.capture tick.toNat
  | .distRead, s => s.returnResult s.distanceCm
  | .actInit, s => { s.emit (actInitWrites s.cfg) with modeCache := modeAwake s.cfg }
  | .setSteer angle, s => s.emit (steerWrites s.cfg (signedValue angle))
  | .setThrottle speed, s => s.emit (throttleWrites s.cfg (signedValue speed))
  | .drive throttle steer, s =>
    s.emit (driveWrites s.cfg s.distanceCm (signedValue throttle) (signedValue steer))

/-- Every operation is performed or refused, and which of the two depends on the configuration alone. -/
theorem exec_eq_perform (i : Instr) (s : State) : exec i s = s.perform (effect i s) := by cases i <;> rfl

/-- Where an operation answers a next state, the configuration is well-formed and the state is its effect. -/
theorem exec_eq_next {i : Instr} {s t : State} : exec i s = .next t ↔ s.cfg.WellFormed ∧ effect i s = t := by
  rw [exec_eq_perform, State.perform_eq_next]

/-- ACT_INIT's update of the mode cache leaves every other field. -/
theorem effect_actInit_trace (s : State) : (effect .actInit s).trace = s.trace ++ actInitWrites s.cfg :=
  State.trace_emit s (actInitWrites s.cfg)

@[simp] theorem effect_cfg (i : Instr) (s : State) : (effect i s).cfg = s.cfg := by cases i <;> simp [effect]
@[simp] theorem effect_opQueue (i : Instr) (s : State) : (effect i s).opQueue = s.opQueue := by
  cases i <;> simp [effect]
@[simp] theorem effect_refusedMark (i : Instr) (s : State) : (effect i s).refusedMark = s.refusedMark := by
  cases i <;> simp [effect]

/-- What one event can do, said once. -/
theorem performEvent_eq_next {s t : State} (h : performEvent s = .next t) :
    (s.opQueue = [] ∧ t = s) ∨
    (∃ rest, s.opQueue = .rst :: rest ∧ t = { s with opQueue := rest }.blockReset) ∨
    (∃ by_ w rest i, s.opQueue = .op by_ w :: rest ∧ s.cfg.WellFormed ∧ decode s.cfg w = .ok i ∧
      t = effect i { s with opQueue := rest }) ∨
    (∃ by_ w last rest i, s.opQueue = .opCutByRst by_ w last :: rest ∧ s.cfg.WellFormed ∧ decode s.cfg w = .ok i ∧
      ((last + 1 < (opWrites i { s with opQueue := rest }).length ∧
          t = ({ s with opQueue := rest }.emit ((opWrites i { s with opQueue := rest }).take (last + 1))).blockReset) ∨
        ((opWrites i { s with opQueue := rest }).length ≤ last + 1 ∧
          t = (effect i { s with opQueue := rest }).blockReset))) := by
  unfold performEvent at h
  split at h
  · rename_i hq; cases h; exact .inl ⟨hq, rfl⟩
  · rename_i by_ w rest hq
    unfold performWord at h
    split at h
    · rename_i hc
      split at h
      · rename_i i hd
        exact .inr (.inr (.inl ⟨by_, w, rest, i, hq, hc, hd, ((exec_eq_next.1 h).2).symm⟩))
      · cases h
    · cases h
  · rename_i by_ w last rest hq
    unfold performCutWord at h
    split at h
    · rename_i hc
      split at h
      · rename_i i hd
        refine .inr (.inr (.inr ⟨by_, w, last, rest, i, hq, hc, hd, ?_⟩))
        unfold performCut at h
        split at h
        · rename_i hl; exact .inl ⟨hl, ((State.perform_eq_next.1 h).2).symm⟩
        · rename_i hl
          rw [exec_eq_perform, State.perform_of_wellFormed hc] at h
          cases h
          exact .inr ⟨Nat.le_of_not_lt hl, rfl⟩
      · cases h
    · cases h
  · rename_i rest hq; cases h; exact .inr (.inl ⟨rest, hq, rfl⟩)

/-- A turn is the step's next state, or the marked state of a refused event. -/
theorem turn_cases (s : State) :
    (∃ t, step s = .next t ∧ turn s = t) ∨ (∃ r, step s = .refused r ∧ turn s = s.markRefused) := by
  unfold turn
  cases h : step s with
  | next t => exact .inl ⟨t, rfl, rfl⟩
  | fault f => cases f
  | refused r => exact .inr ⟨r, rfl, rfl⟩

end Sys2Proof.Machine
end

