-- ==== Sys2Proof/Laws/PerInstr.lean ====
section
/-! SUPPORT. Facts about every operation as it is written, one lemma per constructor: the operation code in bits 71:64 of an
operation's word is its row's (30_encoding.md R70, R73). -/

namespace Sys2Proof

theorem opcField_packWord (opc : Byte) (a b : Operand) : opcField (packWord opc a b) = opc := by
  unfold opcField packWord
  apply BitVec.eq_of_getLsbD_eq
  intro i hi
  simp only [BitVec.getLsbD_extractLsb', BitVec.getLsbD_append]
  rw [if_neg (by omega), if_neg (by omega), show 64 + i - 32 - 32 = i by omega]
  simp [show i < 8 from hi]

theorem aField_packWord (opc : Byte) (a b : Operand) : aField (packWord opc a b) = a := by
  unfold aField packWord
  apply BitVec.eq_of_getLsbD_eq
  intro i hi
  simp only [BitVec.getLsbD_extractLsb', BitVec.getLsbD_append]
  rw [if_neg (by omega), if_pos (by omega)]
  simp [show i < 32 from hi]

theorem bField_packWord (opc : Byte) (a b : Operand) : bField (packWord opc a b) = b := by
  unfold bField packWord
  apply BitVec.eq_of_getLsbD_eq
  intro i hi
  simp only [BitVec.getLsbD_extractLsb', BitVec.getLsbD_append]
  rw [if_pos (by omega)]
  simp [show i < 32 from hi]

end Sys2Proof

namespace Sys2Proof.Laws.EncodedOpcode

/-- The word's operation code is the row's. -/
def Statement (i : Instr) : Prop := opcField (encode i) = opcodeOf i.name

theorem echoCapture (tick : Operand) : Statement (.echoCapture tick) := opcField_packWord ..
theorem distRead : Statement .distRead := opcField_packWord ..
theorem actInit : Statement .actInit := opcField_packWord ..
theorem setSteer (angle : Operand) : Statement (.setSteer angle) := opcField_packWord ..
theorem setThrottle (speed : Operand) : Statement (.setThrottle speed) := opcField_packWord ..
theorem drive (throttle steer : Operand) : Statement (.drive throttle steer) := opcField_packWord ..

end Sys2Proof.Laws.EncodedOpcode
end

