-- ==== Sys2Proof/Tests/Slice0.lean ====
section
/-! SUPPORT. The model's own tests. Expected values are those of spec/95_test_vectors.md (the id of the vector stands with the
test) or are written out from the encoding tables of spec/30_encoding.md. The theorems named witness_<Name> show, for the
obligation <Name>, values that meet its hypotheses together. -/

namespace Sys2Proof.Tests

open Sys2Proof Sys2Proof.Machine Sys2Proof.Safety

set_option maxRecDepth 8000

/-! ### Helpers -/

/-- The default configuration with 16-bit commands, as vectors E-17 to E-20 take it. -/
def cmd16 : Config := { Config.hardware with cmdW := 16 }

/-- An ill-formed configuration whose counter stops short of its field (00_scope.md R8, first clause). -/
def shortCounter : Config := { Config.hardware with maxTick := 59999 }

/-- The state after reset with the next writes all delivered. -/
def delivering : State := { State.reset with busOutcomes := List.replicate 40 .ok }

/-- The state after reset with these events presented. -/
def presenting (q : List PortEvent) : State := { State.reset with opQueue := q }

/-- The state a list of operations leaves, if each is performed. -/
def after (is : List Instr) (s : State) : Option State :=
  match execAll is s with
  | .next t => some t
  | .fault _ => none
  | .refused _ => none

/-- The bus-write trace a list of operations leaves, as pairs. -/
def traceAfter (is : List Instr) (s : State) : Option (List (Byte × Byte)) :=
  (after is s).map fun t => t.trace.map fun w => (w.reg, w.val)

/-- The block's state as the vectors write it. -/
def blockAfter (is : List Instr) (s : State) : Option (Phase × Nat × Nat × Nat × Byte) :=
  (after is s).map fun t => (t.phase, t.tRise, t.tFall, t.distanceCm, t.modeCache)

/-- The bytes of a channel in the controller's registers. -/
def channelBytes (s : State) (ch : Nat) : List (Option Byte) :=
  [0, 1, 2, 3].map fun k => Memory.read s.controller (BitVec.ofNat 8 (6 + 4 * ch + k))

/-- The state a step answers, if it answers one. -/
def nextOf (a : Answer) : Option State :=
  match a with
  | .next t => some t
  | .fault _ => none
  | .refused _ => none

/-- -100 and -50 as the operand field holds them. -/
def minus100 : Operand := 0xFFFFFF9C
def minus50 : Operand := 0xFFFFFFCE

theorem exists_next {a : Answer} (h : (nextOf a).isSome = true) : ∃ t, a = .next t := by
  cases a with
  | next t => exact ⟨t, rfl⟩
  | fault f => cases f
  | refused r => cases h

/-- The default configuration at another PWM frequency. -/
def atFreq (f : Nat) : Config := { Config.withChannels 0 1 2 3 with freqHz := f }

/-- The state after reset under an ill-formed configuration. -/
def illFormed : State := { State.reset with cfg := shortCounter }

/-! ### Well-formedness: each check refuses an ill-formed term -/

theorem test_wellFormed_refuses_tick_above_field : (Instr.echoCapture 65536).wellFormed Config.hardware = false := by decide
theorem test_wellFormed_refuses_tick_above_maxTick : (Instr.echoCapture 60000).wellFormed shortCounter = false := by decide
theorem test_wellFormed_refuses_angle : (Instr.setSteer 32768).wellFormed cmd16 = false := by decide
theorem test_wellFormed_refuses_speed : (Instr.setThrottle 0xFFFF7FFF).wellFormed cmd16 = false := by decide
theorem test_wellFormed_refuses_drive_throttle : (Instr.drive 32768 0).wellFormed cmd16 = false := by decide
theorem test_wellFormed_refuses_drive_steer : (Instr.drive 0 0xFFFF7FFF).wellFormed cmd16 = false := by decide
theorem test_wellFormed_admits_the_ends :
    (Instr.echoCapture 65535).wellFormed Config.hardware = true ∧ (Instr.setSteer 0xFFFF8000).wellFormed cmd16 = true ∧
      (Instr.drive 32767 0x80000000).wellFormed Config.hardware = true ∧ Instr.distRead.wellFormed cmd16 = true ∧
      Instr.actInit.wellFormed cmd16 = true := by decide

/-! ### The configuration: each clause of 00_scope.md R8 refuses one -/

theorem test_config_wellFormed : Config.hardware.WellFormed ∧ cmd16.WellFormed := by decide
theorem test_config_maxTick : ¬ shortCounter.WellFormed := by decide
theorem test_config_usPerCm : ¬ { Config.hardware with usPerCm := 0 }.WellFormed := by decide
theorem test_config_cmdLimit : ¬ { Config.hardware with cmdLimit := 0 }.WellFormed ∧
    ¬ { Config.hardware with cmdW := 7 }.WellFormed := by decide
/-- The table of prescales after I-3: 23 and 12208 are ill-formed, 24 and 12207 are not. -/
theorem test_config_freq : ¬ (atFreq 23).WellFormed ∧ (atFreq 24).WellFormed ∧ (atFreq 12207).WellFormed ∧
    ¬ (atFreq 12208).WellFormed := ⟨by decide, by decide, by decide, by decide⟩
theorem test_config_channels : ¬ (Config.withChannels 0 1 2 2).WellFormed ∧ ¬ (Config.withChannels 0 1 2 16).WellFormed := by
  decide
theorem test_config_addresses : ¬ { Config.hardware with regAllBase := 0xFD }.WellFormed ∧
    ¬ { Config.hardware with regLedBase := 0xC1 }.WellFormed := by decide
theorem test_config_steering : ¬ { Config.hardware with steerCenter := 89 }.WellFormed ∧
    { Config.hardware with steerCenter := 90 }.WellFormed := by decide

/-! ### Decoding: words written out from 30_encoding.md R70, R71 and R73 (opc, then a, then b) -/

/-- opc 0x01 = 0000_0001, a = 0, b = 60000 = 0xEA60 (R80). -/
theorem test_decode_echoCapture : decodeTableWord 72 0x01_00000000_0000EA60 = some (.echoCapture 60000) := by decide
/-- opc 0x02, both operands zero. -/
theorem test_decode_distRead : decodeTableWord 72 0x02_00000000_00000000 = some .distRead := by decide
/-- opc 0x03, both operands zero. -/
theorem test_decode_actInit : decodeTableWord 72 0x03_00000000_00000000 = some .actInit := by decide
/-- opc 0x04, a = 0, b = 2^32 - 100 = 0xFFFFFF9C (R80). -/
theorem test_decode_setSteer : decodeTableWord 72 0x04_00000000_FFFFFF9C = some (.setSteer minus100) := by decide
/-- opc 0x05, a = 0, b = 2^32 - 50 = 0xFFFFFFCE (E-14). -/
theorem test_decode_setThrottle : decodeTableWord 72 0x05_00000000_FFFFFFCE = some (.setThrottle minus50) := by decide
/-- opc 0x06, a = 50 = 0x32, b = 2^32 - 100 (R80, E-16): the throttle is the upper field. -/
theorem test_decode_drive : decodeTableWord 72 0x06_00000032_FFFFFF9C = some (.drive 50 minus100) := by decide
/-- A signed operand is read as s32. -/
theorem test_operand_is_signed : signedValue minus100 = -100 ∧ signedValue 0x80000000 = -2147483648 ∧
    signedValue 0x7FFFFFFF = 2147483647 := by decide
/-- E-10, E-11, E-13 and E-15. -/
theorem test_decode_ends :
    decode Config.hardware 0x01000000000000FFFF#72 = .ok (.echoCapture 65535) ∧
    decode Config.hardware 0x010000000000000000#72 = .ok (.echoCapture 0) ∧
    decode Config.hardware 0x040000000080000000#72 = .ok (.setSteer 0x80000000) ∧
    decode Config.hardware 0x06FFFFFFFFFFFFFFFF#72 = .ok (.drive 0xFFFFFFFF 0xFFFFFFFF) := by decide
/-- E-1 to E-4. -/
theorem test_decode_badOpc :
    decode Config.hardware 0x000000000000000000#72 = .error .badOpc ∧
    decode Config.hardware 0x070000000000000000#72 = .error .badOpc ∧
    decode Config.hardware 0xFFFFFFFFFFFFFFFFFF#72 = .error .badOpc ∧
    decode Config.hardware 0x000000000100000001#72 = .error .badOpc := by decide
/-- E-5 to E-9 and E-12. -/
theorem test_decode_nonzeroReserved :
    decode Config.hardware 0x020000000000000001#72 = .error .nonzeroReserved ∧
    decode Config.hardware 0x020000000100000000#72 = .error .nonzeroReserved ∧
    decode Config.hardware 0x030000000080000000#72 = .error .nonzeroReserved ∧
    decode Config.hardware 0x010000000000010000#72 = .error .nonzeroReserved ∧
    decode Config.hardware 0x010000000100000000#72 = .error .nonzeroReserved ∧
    decode Config.hardware 0x040000000100000000#72 = .error .nonzeroReserved := by decide
/-- E-17 to E-20. -/
theorem test_decode_operandRange :
    decode cmd16 0x040000000000008000#72 = .error .operandRange ∧
    decode cmd16 0x0400000000FFFF8000#72 = .ok (.setSteer 0xFFFF8000) ∧
    decode cmd16 0x060000800000000000#72 = .error .operandRange ∧
    decode cmd16 0x0600000000FFFF7FFF#72 = .error .operandRange := by decide
/-- TICK_RANGE: a tick in its field but above MAX_TICK, under an ill-formed configuration (R76). -/
theorem test_decode_tickRange : decode shortCounter 0x01000000000000EA60#72 = .error .tickRange := by decide
/-- 30_encoding.md R80, the other way round. -/
theorem test_encode : encode (.setSteer minus100) = 0x0400000000FFFFFF9C#72 ∧
    encode (.drive 50 minus100) = 0x0600000032FFFFFF9C#72 ∧ encode (.echoCapture 60000) = 0x01000000000000EA60#72 := by decide

/-! ### Ranging -/

/-- Vectors R-1, R-6 to R-8, R-10, R-12, R-13 and R-16: the pair of ticks, the elapsed ticks, the centimetres. -/
theorem test_elapsed_and_distance :
    [(60000, 100), (500, 500), (65535, 0), (1, 0), (0, 65535), (100, 157), (100, 158), (65478, 0)].map (fun p =>
      (elapsed Config.hardware p.1 p.2, ticksToCm Config.hardware (elapsed Config.hardware p.1 p.2))) =
    [(5636, 97), (65536, 1129), (1, 0), (65535, 1129), (65535, 1129), (57, 0), (58, 1), (58, 1)] := by decide
/-- R-18 and R-19. -/
theorem test_echoCapture_rise : blockAfter [.echoCapture 60000] State.reset = some (.awaitingFall, 60000, 0, 0, 0x00) := by
  decide
theorem test_echoCapture_fall :
    blockAfter [.echoCapture 60000, .echoCapture 100] State.reset = some (.awaitingRise, 60000, 100, 97, 0x00) := by decide
/-- D-2: a read of a published distance; D-3: a read in flight. -/
theorem test_distRead : (after [.echoCapture 60000, .echoCapture 100, .distRead, .echoCapture 30000, .distRead]
    State.reset).map State.results = some [97, 97] := by decide
theorem test_distRead_changes_no_state : blockAfter [.distRead] { State.reset with distanceCm := 7, modeCache := 0x01 } =
    some (.awaitingRise, 0, 0, 7, 0x01) := by decide

/-! ### The actuator -/

/-- I-1: the trace INIT and the mode cache it leaves. -/
theorem test_actInit_trace : traceAfter [.actInit] State.reset = some [(0xFA, 0x00), (0xFB, 0x00), (0xFC, 0x00),
    (0xFD, 0x00), (0x01, 0x04), (0x00, 0x01), (0x00, 0x01), (0x00, 0x11), (0xFE, 0x65), (0x00, 0x01), (0x00, 0x81)] := by
  decide
theorem test_actInit_modeCache : blockAfter [.actInit] State.reset = some (.awaitingRise, 0, 0, 0, 0x01) := by decide
/-- The row of prescales after I-3. -/
theorem test_prescale : [23, 24, 50, 60, 100, 200, 1000, 1526, 1600, 12207, 12208].map (fun f =>
    prescaleVal (atFreq f)) = [264, 253, 121, 101, 60, 30, 5, 3, 3, 0, -1] := by decide
/-- The rows of SteerPwm, ties included (L2-S). -/
theorem test_steerPwm : [0, -100, 100, 150, 5, -5, -99, -95, -55, -15, -1, 1, 15, 55, 95, 99].map
    (steerPwm Config.hardware) = [430, 520, 340, 340, 425, 435, 519, 516, 480, 444, 431, 429, 416, 380, 344, 341] := by decide
/-- S-2 and S-8. -/
theorem test_setSteer : traceAfter [.setSteer minus100] State.reset =
    some [(0x06, 0x00), (0x07, 0x00), (0x08, 0x08), (0x09, 0x02)] := by decide
theorem test_setSteer_clamps : traceAfter [.setSteer 0x7FFFFFFF] State.reset =
    some [(0x06, 0x00), (0x07, 0x00), (0x08, 0x54), (0x09, 0x01)] := by decide
/-- The rows of ThrottleDuty (L2-T). -/
theorem test_throttleDuty : [50, -50, 0, 1, 99, 150, 30, 2, 3, 67, -67].map (throttleDuty Config.hardware) =
    [2047, 2047, 0, 40, 4054, 4095, 1228, 81, 122, 2743, 2743] := by decide
/-- T-2. -/
theorem test_setThrottle_reverse : traceAfter [.setThrottle minus50] State.reset = some [(0x0E, 0x00), (0x0F, 0x00),
    (0x10, 0x00), (0x11, 0x10), (0x12, 0x00), (0x13, 0x10), (0x14, 0x00), (0x15, 0x00), (0x0A, 0x00), (0x0B, 0x00),
    (0x0C, 0xFF), (0x0D, 0x07)] := by decide
/-- T-1. -/
theorem test_setThrottle_forward : traceAfter [.setThrottle 50] State.reset = some [(0x12, 0x00), (0x13, 0x00),
    (0x14, 0x00), (0x15, 0x10), (0x0E, 0x00), (0x0F, 0x10), (0x10, 0x00), (0x11, 0x00), (0x0A, 0x00), (0x0B, 0x00),
    (0x0C, 0xFF), (0x0D, 0x07)] := by decide
/-- F-1: the failsafe at 5 cm. -/
theorem test_drive_failsafe : traceAfter [.drive 50 minus100] { State.reset with distanceCm := 5 } = some [(0x0E, 0x00),
    (0x0F, 0x00), (0x10, 0x00), (0x11, 0x10), (0x12, 0x00), (0x13, 0x00), (0x14, 0x00), (0x15, 0x10), (0x0A, 0x00),
    (0x0B, 0x00), (0x0C, 0x00), (0x0D, 0x00), (0x06, 0x00), (0x07, 0x00), (0x08, 0x08), (0x09, 0x02)] := by decide
/-- F-4: no failsafe at 10 cm. -/
theorem test_drive_forward : traceAfter [.drive 50 0] { State.reset with distanceCm := 10 } = some [(0x12, 0x00),
    (0x13, 0x00), (0x14, 0x00), (0x15, 0x10), (0x0E, 0x00), (0x0F, 0x10), (0x10, 0x00), (0x11, 0x00), (0x0A, 0x00),
    (0x0B, 0x00), (0x0C, 0xFF), (0x0D, 0x07), (0x06, 0x00), (0x07, 0x00), (0x08, 0xAE), (0x09, 0x01)] := by decide
/-- The table L2-F at distances 0, 1, 9, 10 and throttles -50, 0, 1, 150. -/
theorem test_effectiveThrottle : [0, 1, 9, 10].map (fun d => [-50, 0, 1, 150].map (effectiveThrottle Config.hardware d)) =
    [[-50, 0, 1, 150], [-50, 0, 0, 0], [-50, 0, 0, 0], [-50, 0, 1, 150]] := by decide

/-! ### The bus, reset, the mark -/

/-- P1: the controller's image after bring-up, center and coast. -/
theorem test_controller_image : (after [.actInit, .setSteer 0, .setThrottle 0] delivering).map State.controller =
    some [(0x00, 0x81), (0x01, 0x04), (0x06, 0x00), (0x07, 0x00), (0x08, 0xAE), (0x09, 0x01), (0x0A, 0x00), (0x0B, 0x00),
      (0x0C, 0x00), (0x0D, 0x00), (0x0E, 0x00), (0x0F, 0x00), (0x10, 0x00), (0x11, 0x10), (0x12, 0x00), (0x13, 0x00),
      (0x14, 0x00), (0x15, 0x10), (0xFA, 0x00), (0xFB, 0x00), (0xFC, 0x00), (0xFD, 0x00), (0xFE, 0x65)] := by decide
/-- X-3: the off-high write is lost. -/
theorem test_torn_channel : (after [.setSteer minus100]
    { State.reset with controller := [(6, 0x00), (7, 0x00), (8, 0xAE), (9, 0x01)], busOutcomes := [.ok, .ok, .ok, .timeout] }
    ).map (channelBytes · 0) = some [some 0x00, some 0x00, some 0x08, some 0x01] := by decide
/-- X-1. -/
theorem test_rst : (nextOf (step { presenting [.rst] with
    phase := .awaitingFall, tRise := 60000, distanceCm := 42, modeCache := 0x01 })) = some State.reset := by decide
/-- X-2: `rst` after the fifth write of ACT_INIT. -/
theorem test_rst_cuts_actInit :
    (nextOf (step (presenting [.opCutByRst .controlTask 0x030000000000000000#72 4]))).map (fun t =>
      (t.trace.map (fun w => (w.reg, w.val)), t.modeCache)) =
    some ([(0xFA, 0x00), (0xFB, 0x00), (0xFC, 0x00), (0xFD, 0x00), (0x01, 0x04)], 0x00) := by decide
/-- E-1 on the port: refused with its reason, and the mark set. -/
theorem test_refused_word : step (presenting [.op .controlTask 0#72]) = .refused (.illegalWord .badOpc) ∧
    turn (presenting [.op .controlTask 0#72]) = { State.reset with refusedMark := true } := ⟨rfl, rfl⟩
/-- A refused word does not take its `rst` with it (log 22). -/
theorem test_rst_after_refused_word :
    turns 2 { presenting [.opCutByRst .controlTask 0#72 2] with phase := .awaitingFall, tRise := 7, modeCache := 0x01 } =
      { State.reset with refusedMark := true } := rfl
/-- R20: any task may issue DIST_READ, the control task too, and the capture source issues ECHO_CAPTURE only. -/
theorem test_allocation : issuedAsAllocated Config.hardware (.op .controlTask 0x020000000000000000#72) = true ∧
    issuedAsAllocated Config.hardware (.op .captureSource 0x020000000000000000#72) = false ∧
    issuedAsAllocated Config.hardware (.op .distanceReader 0x030000000000000000#72) = false := by decide
/-- The word of the opcode table is the next one performed. -/
theorem test_withFetchWord : nextOf (step (State.reset.withFetchWord 72 0x01_00000000_0000EA60)) =
    some { State.reset with phase := .awaitingFall, tRise := 60000 } := by decide
/-- A write of the block in the controller's registers reads back, and no other register changes. -/
theorem test_memory : Memory.read (Memory.write [(6, 1), (8, 2)] 7 3) 7 = some 3 ∧
    Memory.read (Memory.write [(6, 1), (8, 2)] 7 3) 8 = some 2 ∧ Memory.read [(6, 1), (8, 2)] 7 = none ∧
    Memory.wf (Memory.write [(6, 1), (8, 2)] 7 3) ∧ ¬ Memory.wf [(8, 2), (6, 1)] ∧ ¬ Memory.wf [(256, 0)] := by decide
/-- 10_state.md R22 and R21: the encodings. -/
theorem test_edgeSel : phaseBit .awaitingFall = 1 ∧ edgeBit .falling = 1 ∧ State.reset.edgeSel = .rising ∧
    { State.reset with phase := .awaitingFall }.edgeSel = .falling := by decide

/-! ### Assembly text (30_encoding.md R78, R79) -/

theorem test_assemble : assembleWords Config.hardware "  drive 50, -100 ; go".toList = .ok [0x0600000032FFFFFF9C#72] := by
  decide
theorem test_assemble_measure : assembleLine Config.hardware "measure 0x3E8, 1290".toList =
    .ok [.echoCapture 1000, .echoCapture 1290] := by decide
theorem test_assemble_errors : assembleLine Config.hardware "echo_capture 65536".toList = .error .literalRange ∧
    assembleLine Config.hardware "coast 1".toList = .error .operandCount ∧
    assembleLine Config.hardware "nop".toList = .error .unknownMnemonic := by decide

/-! ### Witnesses: values that meet the hypotheses of each obligation -/

theorem witness_DecodeOfEncodeIsTheOperation :
    (Instr.echoCapture 65535).wellFormed Config.hardware = true ∧ (Instr.drive minus50 100).wellFormed cmd16 = true := by
  decide

theorem witness_DecodedWordIsTheEncoding :
    decode Config.hardware 0x0600000032FFFFFF9C#72 = .ok (.drive 50 minus100) := by decide

/-- Every verdict is met, the configuration of the last clause too. -/
theorem witness_VerdictIsTheFirstReason :
    decode Config.hardware 0x07FFFFFFFFFFFFFFFF#72 = .error .badOpc ∧
    decode Config.hardware 0x010000000000010000#72 = .error .nonzeroReserved ∧
    decode shortCounter 0x01000000000000EA60#72 = .error .tickRange ∧
    decode cmd16 0x050000000000008000#72 = .error .operandRange ∧
    decode cmd16 0x050000000000007FFF#72 = .ok (.setThrottle 32767) ∧ Config.hardware.WellFormed ∧
    32 ≤ Config.hardware.cmdW := by decide

theorem witness_OperandsAreTheWordsFields :
    decode Config.hardware 0x01000000000000FFFF#72 = .ok (.echoCapture 65535) ∧
    decode cmd16 0x0400000000FFFF8000#72 = .ok (.setSteer 0xFFFF8000) ∧
    decode cmd16 0x050000000000007FFF#72 = .ok (.setThrottle 32767) ∧
    decode Config.hardware 0x06800000007FFFFFFF#72 = .ok (.drive 0x80000000 0x7FFFFFFF) := by decide

/-- A denominator, an ill-formed configuration, and channels bound at both ends. -/
theorem witness_ConfigurationClauses :
    1 ≤ Config.hardware.steerScale.den ∧ ¬ illFormed.cfg.WellFormed ∧
      channelsBound 15 0 14 1 ∧ (Config.withChannels 15 0 14 1).WellFormed :=
  ⟨by decide, by decide, by decide, by decide⟩

theorem witness_StepPerformsThePresentedOperation :
    let s := presenting [.op .controlTask 0x0400000000FFFFFF9C#72, .rst]
    s.opQueue = .op .controlTask 0x0400000000FFFFFF9C#72 :: [.rst] ∧ s.cfg.WellFormed ∧
      decode s.cfg 0x0400000000FFFFFF9C#72 = .ok (.setSteer minus100) := by decide

theorem witness_OperationsArePerformedInPresentationOrder :
    let ops : List (Issuer × Instr) := [(.captureSource, .echoCapture 60000), (.distanceReader, .distRead),
      (.captureSource, .echoCapture 100)]
    let s := presenting (ops.map fun p => PortEvent.op p.1 (encode p.2))
    (∀ p ∈ ops, p.2.wellFormed s.cfg = true) ∧ s.opQueue = ops.map (fun p => PortEvent.op p.1 (encode p.2)) ∧
      ∃ t, execAll (ops.map Prod.snd) { s with opQueue := [] } = .next t ∧ t.distanceCm = 97 :=
  ⟨by decide, rfl, _, rfl, by decide⟩

theorem witness_EveryOperationCompletes : State.reset.cfg.WellFormed := by decide

/-- An ill-formed configuration; an illegal word under a well-formed one; and a refusal. -/
theorem witness_RefusedWordsChangeNothingButTheMark :
    let s := presenting [.op .controlTask 0x020000000000000001#72]
    s.opQueue = .op .controlTask 0x020000000000000001#72 :: [] ∧ ¬ { s with cfg := shortCounter }.cfg.WellFormed ∧ s.cfg.WellFormed ∧ decode s.cfg 0x020000000000000001#72 = .error .nonzeroReserved ∧
      step s = .refused (.illegalWord .nonzeroReserved) :=
  ⟨rfl, by decide, by decide, by decide, rfl⟩

/-- A run with the mark set, one with it clear, and one that meets a refused word. -/
theorem witness_MarkTellsWhetherAWordWasRefused :
    { State.reset with refusedMark := true }.refusedMark = true ∧ State.reset.refusedMark = false ∧
      (turns 2 (presenting [.op .distanceReader 0x020000000000000000#72, .op .controlTask 0#72])).refusedMark = true ∧
      (turns 1 (presenting [.op .distanceReader 0x020000000000000000#72, .op .controlTask 0#72])).refusedMark = false := by
  decide

theorem witness_StepKeepsConfigurationAndExtendsOutputs :
    ∃ t, step (presenting [.op .controlTask 0x040000000000000000#72]) = .next t ∧ t.bus.length = 4 :=
  ⟨_, rfl, by decide⟩

theorem witness_ResetValues : (presenting [.rst]).opQueue = .rst :: [] := by decide

theorem witness_RstResetsTheBlockAlone : (presenting [.rst, .rst]).opQueue = .rst :: [.rst] := by decide

/-- Cut after the first write, after the last but one, and (nothing left to cut) after the last. -/
theorem witness_RstCutsTheRemainingWrites : ∀ last ∈ [0, 14, 15],
    let s := presenting [.opCutByRst .controlTask 0x0600000032FFFFFF9C#72 last]
    s.opQueue = .opCutByRst .controlTask 0x0600000032FFFFFF9C#72 last :: [] ∧ s.cfg.WellFormed ∧
      decode s.cfg 0x0600000032FFFFFF9C#72 = .ok (.drive 50 minus100) ∧
      ∃ u, exec (.drive 50 minus100) { s with opQueue := [] } = .next u :=
  fun last h => ⟨rfl, by revert last; decide, by revert last; decide, exists_next (by revert last; decide)⟩

/-- Both branches at their boundaries: r = f, f = r - 1, r = MAX_TICK and f = 0, r = 0 and f = MAX_TICK. -/
theorem witness_ElapsedIsTheResidueWithFullWrapForZero :
    let c := Config.hardware
    c.maxTick ≤ c.maxTick ∧ (1 : Nat) ≤ c.maxTick ∧ c.maxTick + 1 = 2 ^ c.tickW ∧ 0 < c.maxTick ∧
      elapsed c 500 500 = 65536 ∧ elapsed c 1 0 = 65535 ∧ elapsed c 65535 0 = 1 ∧ elapsed c 0 65535 = 65535 := by decide

/-- Pulses of one tick, of one full wrap, and of one tick more, from the top tick. -/
theorem witness_PulseLengthIsMeasuredUpToOneWrap :
    let c := Config.hardware
    65535 ≤ c.maxTick ∧ [1, 65536, 65537].map (fun l => elapsed c 65535 ((65535 + l) % (c.maxTick + 1))) = [1, 65536, 1] := by
  decide

/-- Quotients that fit DIST_W, up to the longest elapsed time. -/
theorem witness_ConversionTruncates : 5636 / Config.hardware.usPerCm < 2 ^ Config.hardware.distW ∧
    ticksToCm (Config.withChannels 15 14 13 12) 65536 = 1129 := by decide

/-- One pair of ticks in each class, at a boundary where the class has one. -/
theorem witness_DistanceOutcomeClasses :
    (65535 : Nat) > 0 ∧ (64999 : Nat) < 65000 ∧ (500 : Nat) = 500 ∧ elapsed Config.hardware 100 157 = 57 ∧
      elapsed Config.hardware 0 65482 = 65482 ∧ ticksToCm Config.hardware 65482 = 1129 ∧
      ticksToCm Config.hardware 65481 = 1128 := by decide

/-- Both phases, the second with ticks at the top of the range. -/
theorem witness_EchoCaptureRecordsAndMeasures :
    (Instr.echoCapture 65535).wellFormed Config.hardware = true ∧
    State.reset.cfg.WellFormed ∧ State.reset.phase = .awaitingRise ∧ State.reset.edgeSel = .rising ∧
      (let s := { State.reset with phase := .awaitingFall, tRise := 65535 }
       s.cfg.WellFormed ∧ s.phase = .awaitingFall ∧ s.edgeSel = .falling ∧ s.tRise ≤ s.cfg.maxTick ∧
        (65535 : Operand).toNat ≤ s.cfg.maxTick ∧ (s.cfg.maxTick + 1) / s.cfg.usPerCm < 2 ^ s.cfg.distW ∧
        ∃ t, exec (.echoCapture 65535) s = .next t) :=
  ⟨by decide, by decide, rfl, rfl, by decide, rfl, rfl, by decide, by decide, by decide, _, rfl⟩

theorem witness_DistReadReturnsThePublishedDistance : { State.reset with distanceCm := 1129 }.cfg.WellFormed := by decide

theorem witness_ReadReturnsTheLatestMeasurement :
    let s := { State.reset with phase := .awaitingFall, tRise := 60000 }
    s.phase = .awaitingFall ∧ (∀ i ∈ [Instr.actInit, .distRead], isCapture i = false) ∧
      ∃ t, exec (.echoCapture 100) s = .next t ∧ ∃ u, execAll [.actInit, .distRead] t = .next u ∧
        u.distanceCm = 97 ∧ ∃ w, exec (.echoCapture 5) u = .next w :=
  ⟨rfl, by decide, _, rfl, _, rfl, by decide, _, rfl⟩

theorem witness_RangingDependsOnCapturesAlone :
    ∃ t, execAll [.echoCapture 60000, .drive 50 0, .echoCapture 100, .distRead] State.reset = .next t ∧ t.distanceCm = 97 :=
  ⟨_, rfl, by decide⟩

theorem witness_PhaseIsTheParityOfTheCaptures :
    ∃ t, execAll [.echoCapture 60000, .distRead, .echoCapture 100, .echoCapture 7] State.reset = .next t ∧
      t.phase = .awaitingFall := ⟨_, rfl, by decide⟩

theorem witness_StepKeepsRangingInRange :
    let s := { presenting [.op .captureSource 0x01000000000000FFFF#72] with phase := .awaitingFall, tRise := 65535 }
    rangingInRange s ∧ ∃ t, step s = .next t ∧ t.distanceCm = 1129 := ⟨by decide, _, rfl, by decide⟩

/-- Not a multiple and a tie. -/
theorem witness_RoundHazIsNearestTiesAway : 0 < 10 ∧ roundHaz (-45) 10 = -5 ∧ roundHaz 45 10 = 5 ∧ roundHaz 44 10 = 4 := by
  decide

/-- A tie of each sign, and two ordered angles. -/
theorem witness_SteerPwmIsTheLiteralFormula : (95 : Int) % 10 = 5 ∧ (0 : Int) < 95 ∧ (-95 : Int) % 10 = 5 ∧ (-95 : Int) < 0 ∧
    (-95 : Int) ≤ 95 ∧ steerPwm Config.hardware 95 = 344 ∧ steerPwm Config.hardware (-95) = 516 := by decide

theorem witness_SteeringValuesFitTwelveBits : Config.hardware.WellFormed ∧ 0 ≤ Config.hardware.steerScale.num := by decide

theorem witness_ThrottleDutyTruncates : 1 ≤ Config.hardware.cmdLimit ∧ throttleDuty Config.hardware 2147483647 = 4095 := by
  decide

/-- The defaults, and the two ends of the frequencies that fit a byte. -/
theorem witness_PrescaleIsExact : 0 < Config.hardware.pwmSteps * Config.hardware.freqHz ∧ channelsBound 0 1 2 3 ∧
    (atFreq 24).WellFormed ∧ (atFreq 12207).WellFormed := ⟨by decide, by decide, by decide, by decide⟩

theorem witness_ChannelUpdateBytes : (4095 : Count).toNat ≤ 4095 ∧ hi8 4095 = 0x0F ∧ hi8 4096 = 0x10 := by decide

theorem witness_ActInitBringsUpTheController : State.reset.cfg.WellFormed ∧ State.reset.cfg = Config.withChannels 0 1 2 3 ∧
    ∃ t, exec .actInit State.reset = .next t := ⟨by decide, rfl, _, rfl⟩

/-- A register the operation does not write. -/
theorem witness_SetSteerWritesTheSteeringChannel : State.reset.cfg.WellFormed ∧ (0x0A : Byte) ≠ 0x06 ∧ (0x0A : Byte) ≠ 0x09 ∧
    (Instr.setSteer 0xFFFF8000).wellFormed cmd16 = true := by
  decide

/-- The three signs of a speed. -/
theorem witness_SetThrottleSelectsDirectionThenDuty : State.reset.cfg.WellFormed ∧ 0 < signedValue 1 ∧
    signedValue 0xFFFFFFFF < 0 ∧ signedValue 0 = 0 ∧ (Instr.setThrottle 0x80000000).wellFormed Config.hardware = true := by decide

theorem witness_SetThrottleBytesWithTheDefaults : channelsBound 0 1 2 3 ∧ State.reset.cfg = Config.withChannels 0 1 2 3 := by
  decide

theorem witness_SetOperationsIgnoreInitialisation :
    ∃ t u v, exec (.setSteer 30) State.reset = .next t ∧ exec .actInit State.reset = .next u ∧ exec (.setSteer 30) u = .next v :=
  ⟨_, _, _, rfl, rfl, rfl⟩

/-- The boundaries of the interval, and a configuration with a clamp bound. -/
theorem witness_FailsafeHoldsBelowTenCentimetresForward : 1 ≤ Config.hardware.cmdLimit ∧
    [0, 1, 9, 10].map (fun d => failsafe Config.hardware d 1) = [false, true, true, false] ∧
    failsafe Config.hardware 5 0 = false ∧ failsafe Config.hardware 5 2147483647 = true := by decide

theorem witness_DriveIsThrottleThenSteer : { State.reset with distanceCm := 9 }.cfg.WellFormed ∧
    (Instr.drive 0x7FFFFFFF 0x80000000).wellFormed Config.hardware = true := by decide

theorem witness_FailsafeLeavesTheMotorCoasting : ∀ d ∈ [1, 9],
    let s := { delivering with distanceCm := d }
    channelsBound 0 1 2 3 ∧ s.cfg = Config.withChannels 0 1 2 3 ∧
      s.busOutcomes = List.replicate 16 .ok ++ List.replicate 24 .ok ∧ 1 ≤ d ∧ d ≤ 9 ∧ 0 < signedValue 50 ∧
      ∃ t, exec (.drive 50 minus100) s = .next t := fun d hd =>
  ⟨by decide, rfl, rfl, by revert d; decide, by revert d; decide, by decide,
    exists_next (by revert d; decide)⟩

/-- From full forward to full reverse, whole and cut after the fourth write. -/
theorem witness_BridgeStaysSafeWhileWritesSucceed : ∀ e ∈ [PortEvent.op .controlTask 0x0500000000FFFFFFCE#72,
      PortEvent.opCutByRst .controlTask 0x0500000000FFFFFFCE#72 3],
    let s := { delivering with
      opQueue := [e], controller := [(0x0E, 0x00), (0x0F, 0x10), (0x10, 0x00), (0x11, 0x00), (0x13, 0x00)] }
    channelsBound 0 1 2 3 ∧ s.cfg = Config.withChannels 0 1 2 3 ∧
      s.busOutcomes = List.replicate 16 .ok ++ List.replicate 24 .ok ∧ bridgeSafe s ∧ (nextOf (step s)).isSome = true := by
  decide

/-- A write delivered, a write lost, and a register neither names. -/
theorem witness_BusWriteReachesItsRegisterOnOk : delivering.nextOutcome = .ok ∧
    { State.reset with busOutcomes := [.timeout] }.nextOutcome = .timeout ∧ (0x07 : Byte) ≠ 0x06 := by decide

theorem witness_OnlyListedRegistersAreWritten :
    (∃ t, exec .actInit State.reset = .next t) ∧ ∃ t, exec (.drive 50 0) State.reset = .next t := ⟨⟨_, rfl⟩, _, rfl⟩

theorem witness_WritesPerOperation : ∃ t, exec (.setThrottle 0) delivering = .next t ∧ t.bus.length = 12 ∧
    t.busOutcomes.length = 28 := ⟨_, rfl, by decide, by decide⟩

theorem witness_RunsAreBlindToBusOutcomes :
    let q : List PortEvent := [.op .controlTask 0x030000000000000000#72]
    sameUpToBusOutcomes { presenting q with busOutcomes := List.replicate 40 .ok }
      { presenting q with busOutcomes := List.replicate 40 .timeout, controller := [(0, 0x11)] } := by decide

theorem witness_StepKeepsControllerHoldsDelivered :
    let s := { delivering with opQueue := [.op .controlTask 0x0400000000FFFFFF9C#72] }
    controllerHoldsDelivered s ∧ ∃ t, step s = .next t ∧ t.controller.length = 4 := ⟨by decide, _, rfl, by decide⟩

theorem witness_StepKeepsControllerCanonical :
    let s := { delivering with opQueue := [.op .controlTask 0x030000000000000000#72], controller := [(0, 0x01), (7, 0x00)] }
    Memory.wf s.controller ∧ ∃ t, step s = .next t ∧ t.controller.length = 8 := ⟨by decide, _, rfl, by decide⟩

/-- A read between two states of one ranging state, and a capture. -/
theorem witness_StepKeepsRangingBetweenCaptures :
    let s := presenting [.op .controlTask 0x020000000000000000#72]
    let u := presenting [.op .captureSource 0x01000000000000FFFF#72]
    s.opQueue = .op .controlTask 0x020000000000000000#72 :: [] ∧ decode s.cfg 0x020000000000000000#72 = .ok .distRead ∧
      isCapture .distRead = false ∧ (∃ t, step s = .next t) ∧ sameRanging u { u with modeCache := 0x01, draws := 3 } ∧
      (∃ t, step u = .next t) ∧ ∃ t, step { u with modeCache := 0x01, draws := 3 } = .next t :=
  ⟨rfl, by decide, rfl, ⟨_, rfl⟩, by decide, ⟨_, rfl⟩, _, rfl⟩

/-- An illegal word, and a legal one under an ill-formed configuration. -/
theorem witness_RefusedWordKeepsItsReset :
    let s := presenting [.opCutByRst .controlTask 0#72 2]
    s.opQueue = .opCutByRst .controlTask 0#72 2 :: [] ∧ (∃ r, decode s.cfg 0#72 = .error r) ∧
      { s with cfg := shortCounter }.opQueue = s.opQueue ∧ ¬ { s with cfg := shortCounter }.cfg.WellFormed :=
  ⟨rfl, ⟨_, rfl⟩, rfl, by decide⟩

theorem witness_PseudoOperationsExpand : State.reset.cfg.WellFormed ∧ State.reset.phase = .awaitingRise := by decide

end Sys2Proof.Tests
end

section
/-! The rounding primitive of 00_scope.md R10, and what it gives the steering map (41_actuator.md R125). -/

namespace Sys2Proof.Machine

/-! ### round_haz -/

theorem roundHaz_natCast (m d : Nat) : roundHaz m d = ((2 * m + d) / (2 * d) : Nat) := by
  rcases m.eq_zero_or_pos with rfl | hm
  · have hzero : (2 * 0 + d) / (2 * d) = 0 := by
      rcases d.eq_zero_or_pos with rfl | hd
      · rfl
      · exact Nat.div_eq_of_lt (by omega)
    rw [hzero]
    exact zero_mul _
  · unfold roundHaz
    rw [Int.sign_eq_one_of_pos (by omega), one_mul, Int.natAbs_natCast]

@[simp] theorem roundHaz_neg (n : Int) (d : Nat) : roundHaz (-n) d = -roundHaz n d := by
  simp [roundHaz]

theorem roundHaz_nonneg {n : Int} (hn : 0 ≤ n) (d : Nat) : 0 ≤ roundHaz n d := by
  lift n to Nat using hn
  rw [roundHaz_natCast]
  exact Int.natCast_nonneg _

/-- The rounded value times the denominator lies in `(m - d/2, m + d/2]`: a tie goes up, away from zero. -/
theorem roundHaz_natCast_bounds (m : Nat) {d : Nat} (hd : 0 < d) :
    2 * (m : Int) < 2 * (roundHaz m d * d) + d ∧ 2 * (roundHaz m d * d) ≤ 2 * (m : Int) + d := by
  rw [roundHaz_natCast]
  have hdiv := Nat.div_add_mod (2 * m + d) (2 * d)
  have hlt := Nat.mod_lt (2 * m + d) (show 0 < 2 * d by omega)
  have hcomm : 2 * d * ((2 * m + d) / (2 * d)) = 2 * ((2 * m + d) / (2 * d) * d) := by ring
  rw [hcomm] at hdiv
  constructor <;> norm_cast <;> omega

theorem roundHaz_natCast_mono {m m' : Nat} (h : m ≤ m') (d : Nat) : roundHaz m d ≤ roundHaz m' d := by
  rw [roundHaz_natCast, roundHaz_natCast]
  exact Int.ofNat_le.2 (Nat.div_le_div_right (by omega))

theorem roundHaz_mono {n n' : Int} (h : n ≤ n') (d : Nat) : roundHaz n d ≤ roundHaz n' d := by
  obtain ⟨m, rfl | rfl⟩ := n.eq_nat_or_neg <;> obtain ⟨m', rfl | rfl⟩ := n'.eq_nat_or_neg
  · exact roundHaz_natCast_mono (by omega) d
  · obtain ⟨rfl, rfl⟩ : m = 0 ∧ m' = 0 := by omega
    rfl
  · have hm := roundHaz_nonneg (Int.natCast_nonneg m) d
    have hm' := roundHaz_nonneg (Int.natCast_nonneg m') d
    rw [roundHaz_neg]
    omega
  · rw [roundHaz_neg, roundHaz_neg]
    exact neg_le_neg (roundHaz_natCast_mono (by omega) d)

/-- On a natural numerator both halves are read off the half-open interval of `roundHaz_natCast_bounds`: of its ends only the
upper one is a tie. -/
theorem roundHaz_natCast_nearest (m : Nat) {d : Nat} (hd : 0 < d) :
    2 * |(m : Int) - roundHaz m d * d| ≤ d ∧
      (2 * |(m : Int) - roundHaz m d * d| = d → |(m : Int)| < |roundHaz m d * d|) := by
  obtain ⟨hlower, hupper⟩ := roundHaz_natCast_bounds m hd
  generalize roundHaz m d * d = r at hlower hupper
  rcases abs_cases ((m : Int) - r) with ⟨heq, _⟩ | ⟨heq, _⟩ <;> rw [heq]
  · exact ⟨by omega, fun htie => absurd htie (by omega)⟩
  · refine ⟨by omega, fun _ => ?_⟩
    rw [abs_of_nonneg (Int.natCast_nonneg m), abs_of_nonneg (by omega)]
    omega

/-- Settles O27: round_haz is odd, so a natural numerator decides every one. -/
theorem roundHazIsNearestTiesAway : Obligations.RoundHazIsNearestTiesAway := by
  intro n d hd
  obtain ⟨m, rfl | rfl⟩ := n.eq_nat_or_neg
  · exact roundHaz_natCast_nearest m hd
  · have hneg : -(m : Int) - roundHaz (-m) d * d = -(m - roundHaz m d * d) := by
      rw [roundHaz_neg]
      ring
    rw [hneg, roundHaz_neg, neg_mul, abs_neg, abs_neg, abs_neg]
    exact roundHaz_natCast_nearest m hd

/-! ### The steering map -/

theorem clamp_mem {lo hi : Int} (h : lo ≤ hi) (v : Int) : lo ≤ clamp v lo hi ∧ clamp v lo hi ≤ hi := by
  unfold clamp
  split_ifs <;> omega

theorem scaledSteer_neg (c : Config) (a : Int) : scaledSteer c (-a) = -scaledSteer c a := by
  unfold scaledSteer
  rw [neg_mul, roundHaz_neg]

theorem scaledSteer_mono {c : Config} (hnum : 0 ≤ c.steerScale.num) {a a' : Int} (h : a ≤ a') :
    scaledSteer c a ≤ scaledSteer c a' :=
  roundHaz_mono (mul_le_mul_of_nonneg_right h hnum) _

/-- The commanded angle is clamped, so the extreme steering values are those at the two clamp bounds. -/
theorem steerPwm_mem {c : Config} (hnum : 0 ≤ c.steerScale.num) (angle : Int) :
    c.steerCenter - scaledSteer c c.cmdLimit ≤ steerPwm c angle ∧
      steerPwm c angle ≤ c.steerCenter + scaledSteer c c.cmdLimit := by
  obtain ⟨hlo, hhi⟩ := clamp_mem (show -(c.cmdLimit : Int) ≤ c.cmdLimit by omega) angle
  have hright := scaledSteer_mono hnum hhi
  have hleft := scaledSteer_mono hnum hlo
  rw [scaledSteer_neg] at hleft
  unfold steerPwm
  omega

theorem toNat_count16 {v : Int} (h0 : 0 ≤ v) (h1 : v < 65536) : (count16 v).toNat = v.toNat := by
  unfold count16
  rw [if_pos ⟨h0, h1⟩, BitVec.toNat_ofNat]
  exact Nat.mod_eq_of_lt (by omega)

/-- Settles O29: R8's last clause bounds the two extreme steering values. -/
theorem steeringValuesFitTwelveBits : Obligations.SteeringValuesFitTwelveBits := by
  intro c angle hwf hnum
  obtain ⟨-, -, -, -, -, -, -, hmax, hmin⟩ := hwf
  obtain ⟨hlo, hhi⟩ := steerPwm_mem hnum angle
  have h0 : 0 ≤ steerPwm c angle := hmin.trans hlo
  have h1 : steerPwm c angle ≤ 4095 := hhi.trans hmax
  exact ⟨h0, h1, toNat_count16 h0 (by omega)⟩

end Sys2Proof.Machine
end

section
/-! The clauses of 00_scope.md R8, each in the form a reader of the rule expects. -/

namespace Sys2Proof

open Sys2Proof.Machine Sys2Proof.Safety

theorem Config.maxTick_eq_iff (c : Config) : c.maxTick = 2 ^ c.tickW - 1 ↔ c.maxTick + 1 = 2 ^ c.tickW := by
  have hpos : 0 < 2 ^ c.tickW := Nat.two_pow_pos _
  omega

theorem Config.channelsDistinct_iff (c : Config) :
    c.channelsDistinct ↔ [c.chSteer, c.chPwm, c.chDirPos, c.chDirNeg].Nodup ∧
      ∀ ch ∈ [c.chSteer, c.chPwm, c.chDirPos, c.chDirNeg], ch < c.nCh := by
  simp [Config.channelsDistinct, and_assoc]

/-- The channels' registers bound separately from the named ones. -/
theorem Config.addressesFit_iff (c : Config) :
    c.addressesFit ↔
      (∀ r ∈ [c.regMode1, c.regMode2, c.regLedBase, c.regAllBase, c.regAllBase + 1, c.regAllBase + 2, c.regAllBase + 3,
        c.regPrescale], r ≤ 255) ∧ ∀ ch < c.nCh, ∀ k < 4, c.regLedBase + 4 * ch + k ≤ 255 := by
  have hnamed : (∀ r ∈ [c.regMode1, c.regMode2, c.regLedBase, c.regAllBase, c.regAllBase + 1, c.regAllBase + 2,
      c.regAllBase + 3, c.regPrescale], r ≤ 255) ↔ c.regMode1 < 256 ∧ c.regMode2 < 256 ∧ c.regLedBase < 256 ∧
        c.regAllBase + 3 < 256 ∧ c.regPrescale < 256 := by
    simp only [List.forall_mem_cons, List.not_mem_nil, false_imp_iff, implies_true, and_true]
    omega
  have hchannels : (∀ ch < c.nCh, ∀ k < 4, c.regLedBase + 4 * ch + k ≤ 255) ↔ ∀ ch, ch < c.nCh → regOnL c ch + 3 < 256 :=
    forall₂_congr fun ch _ =>
      ⟨fun h => Nat.lt_succ_of_le (h 3 (by omega)), fun h k hk => by unfold regOnL at h; omega⟩
  rw [hnamed, hchannels]
  simp only [and_assoc]

theorem Config.wellFormed_iff_clauses (c : Config) (hden : 1 ≤ c.steerScale.den) :
    c.WellFormed ↔
      c.maxTick + 1 = 2 ^ c.tickW ∧ 1 ≤ c.usPerCm ∧ 1 ≤ c.cmdLimit ∧ c.cmdLimit < 2 ^ (c.cmdW - 1) ∧ 1 ≤ c.freqHz ∧
      0 ≤ prescaleVal c ∧ prescaleVal c ≤ 255 ∧
      ([c.chSteer, c.chPwm, c.chDirPos, c.chDirNeg].Nodup ∧ ∀ ch ∈ [c.chSteer, c.chPwm, c.chDirPos, c.chDirNeg], ch < c.nCh) ∧
      (∀ r ∈ [c.regMode1, c.regMode2, c.regLedBase, c.regAllBase, c.regAllBase + 1, c.regAllBase + 2, c.regAllBase + 3,
        c.regPrescale], r ≤ 255) ∧
      (∀ ch < c.nCh, ∀ k < 4, c.regLedBase + 4 * ch + k ≤ 255) ∧
      c.steerCenter + roundHaz (c.cmdLimit * c.steerScale.num) c.steerScale.den ≤ 4095 ∧
      0 ≤ c.steerCenter - roundHaz (c.cmdLimit * c.steerScale.num) c.steerScale.den := by
  have hsteer : c.steeringFits ↔
      c.steerCenter + roundHaz (c.cmdLimit * c.steerScale.num) c.steerScale.den ≤ 4095 ∧
        0 ≤ c.steerCenter - roundHaz (c.cmdLimit * c.steerScale.num) c.steerScale.den :=
    and_iff_right hden
  unfold Config.WellFormed
  rw [c.maxTick_eq_iff, c.channelsDistinct_iff, c.addressesFit_iff, hsteer]
  simp only [and_assoc]

/-! ### The defaults -/

section withChannels
variable (steer pwm dirPos dirNeg : Nat)

theorem Config.withChannels_prescaleVal : prescaleVal (Config.withChannels steer pwm dirPos dirNeg) = 101 := by
  norm_num [prescaleVal, Config.withChannels]

theorem Config.withChannels_scaledSteer_limit :
    scaledSteer (Config.withChannels steer pwm dirPos dirNeg) (Config.withChannels steer pwm dirPos dirNeg).cmdLimit = 90 :=
  show roundHaz (100 * 9) 10 = 90 by decide

theorem Config.withChannels_addressesFit : (Config.withChannels steer pwm dirPos dirNeg).addressesFit := by
  have hchannels : ∀ ch, ch < 16 → 6 + 4 * ch + 3 < 256 := by omega
  simpa [Config.addressesFit, regOnL, Config.withChannels] using hchannels

theorem Config.withChannels_steeringFits : (Config.withChannels steer pwm dirPos dirNeg).steeringFits := by
  rw [Config.steeringFits, Config.withChannels_scaledSteer_limit]
  simp [Config.withChannels]

theorem Config.withChannels_channelsDistinct_iff :
    (Config.withChannels steer pwm dirPos dirNeg).channelsDistinct ↔ channelsBound steer pwm dirPos dirNeg := by
  rw [Config.channelsDistinct_iff]
  simp [Config.withChannels]

/-- Only the clause on the channels is left open by the defaults. -/
theorem Config.withChannels_wellFormed_iff :
    (Config.withChannels steer pwm dirPos dirNeg).WellFormed ↔ channelsBound steer pwm dirPos dirNeg := by
  rw [← Config.withChannels_channelsDistinct_iff]
  constructor
  · rintro ⟨-, -, -, -, hchannels, -⟩
    exact hchannels
  · intro hchannels
    have hprescale := Config.withChannels_prescaleVal steer pwm dirPos dirNeg
    refine ⟨?_, ?_, ⟨?_, ?_⟩, ⟨?_, by omega, by omega⟩, hchannels, Config.withChannels_addressesFit ..,
      Config.withChannels_steeringFits ..⟩ <;> simp [Config.withChannels]

end withChannels

/-- Settles O6, from R8's clauses, the one guard of every operation, and the defaults. -/
theorem configurationClauses : Obligations.ConfigurationClauses :=
  ⟨Config.wellFormed_iff_clauses,
    fun i s hill => (exec_eq_perform i s).trans (State.perform_of_illFormed hill _),
    Config.withChannels_wellFormed_iff⟩

end Sys2Proof
end

section
/-! What every performed step keeps and what it only extends (00_scope.md R7, R12; 20_memory.md R62, R65). -/

namespace Sys2Proof.Machine

/-- `t` carries on from `s`: the configuration, the mark and the events to come are those of `s`, and what `s` has written and
returned stands at the front of what `t` has. -/
structure State.Continues (s t : State) : Prop where
  cfg : t.cfg = s.cfg
  refusedMark : t.refusedMark = s.refusedMark
  opQueue : t.opQueue = s.opQueue
  bus : s.bus <+: t.bus
  results : s.results <+: t.results

theorem State.Continues.refl (s : State) : s.Continues s :=
  ⟨rfl, rfl, rfl, List.prefix_rfl, List.prefix_rfl⟩

theorem State.Continues.blockReset {s t : State} (h : s.Continues t) : s.Continues t.blockReset :=
  ⟨h.cfg, h.refusedMark, h.opQueue, h.bus, h.results⟩

theorem State.bus_prefix_emit (s : State) (ws : List BusWrite) : s.bus <+: (s.emit ws).bus := by
  induction ws generalizing s with
  | nil => exact List.prefix_rfl
  | cons w ws ih =>
    rw [State.emit_cons]
    exact (List.prefix_append s.bus _).trans (ih (s.busWrite w))

theorem State.continues_emit (s : State) (ws : List BusWrite) : s.Continues (s.emit ws) where
  cfg := State.emit_cfg ..
  refusedMark := State.emit_refusedMark ..
  opQueue := State.emit_opQueue ..
  bus := s.bus_prefix_emit ws
  results := by rw [State.emit_results]

/-- No operation's effect takes an event or drops an output. -/
theorem continues_effect (i : Instr) (s : State) : s.Continues (effect i s) where
  cfg := effect_cfg i s
  refusedMark := effect_refusedMark i s
  opQueue := effect_opQueue i s
  bus := by
    cases i with
    | echoCapture tick => exact (State.capture_bus s tick.toNat).symm ▸ List.prefix_rfl
    | distRead => exact List.prefix_rfl
    | actInit | setSteer | setThrottle | drive => exact s.bus_prefix_emit _
  results := by
    cases i with
    | distRead => exact List.prefix_append ..
    | echoCapture | actInit | setSteer | setThrottle | drive => simp [effect]

/-- A performed step carries on from the state whose oldest event has been taken. -/
theorem step_continues {s t : State} (h : step s = .next t) : { s with opQueue := s.opQueue.tail }.Continues t := by
  obtain ⟨hq, rfl⟩ | ⟨rest, hq, rfl⟩ | ⟨_, _, rest, i, hq, -, -, rfl⟩ |
      ⟨_, _, _, rest, i, hq, -, -, ⟨-, rfl⟩ | ⟨-, rfl⟩⟩ := performEvent_eq_next h <;> rw [hq, List.tail]
  · rw [← hq]
    exact .refl _
  · exact (State.Continues.refl _).blockReset
  · exact continues_effect i _
  · exact (State.continues_emit _ _).blockReset
  · exact (continues_effect i _).blockReset

/-- Settles O12, from what one event can do. -/
theorem stepKeepsConfigurationAndExtendsOutputs : Obligations.StepKeepsConfigurationAndExtendsOutputs := by
  intro s t hstep
  obtain ⟨hcfg, hmark, hqueue, hbus, hresults⟩ := step_continues hstep
  exact ⟨hcfg, hmark, hqueue, hbus, hresults⟩

end Sys2Proof.Machine
end

section
/-! What a step does with each event the ports can present (10_state.md R21, R29; 60_exceptions.md R202), and what the block
holds right after `rst` (10_state.md R35). -/

namespace Sys2Proof.Machine

section step
variable {s : State} {rest : List PortEvent}

theorem step_idle (hq : s.opQueue = []) : step s = .next s := by
  unfold step performEvent
  rw [hq]

theorem step_op {by_ : Issuer} {w : OpWord} (hq : s.opQueue = .op by_ w :: rest) :
    step s = performWord w { s with opQueue := rest } := by
  unfold step performEvent
  rw [hq]

theorem step_opCutByRst {by_ : Issuer} {w : OpWord} {last : Nat} (hq : s.opQueue = .opCutByRst by_ w last :: rest) :
    step s = performCutWord w last { s with opQueue := rest } := by
  unfold step performEvent
  rw [hq]

theorem step_rst (hq : s.opQueue = .rst :: rest) : step s = .next { s with opQueue := rest }.blockReset := by
  unfold step performEvent
  rw [hq]

end step

theorem performWord_of_decode_ok {s : State} {w : OpWord} {i : Instr} (hwf : s.cfg.WellFormed)
    (hdec : decode s.cfg w = .ok i) : performWord w s = exec i s := by
  unfold performWord
  rw [if_pos hwf, hdec]

/-- Settles O7: a word on the port is performed as it decodes, and its issuer is not looked at. -/
theorem stepPerformsThePresentedOperation : Obligations.StepPerformsThePresentedOperation := by
  intro s by_ w rest i hq hwf hdec
  rw [step_op hq]
  exact performWord_of_decode_ok hwf hdec

@[simp] theorem State.blockReset_edgeSel (s : State) : s.blockReset.edgeSel = .rising := rfl

/-- Power-on's state is already the one `rst` makes. -/
theorem State.blockReset_reset : State.reset.blockReset = State.reset := rfl

/-- Settles O13: both halves are the block state of a `blockReset`. -/
theorem resetValues : Obligations.ResetValues := by
  unfold Obligations.ResetValues
  intro atReset
  have hblockReset : ∀ u : State, atReset u.blockReset := fun _ => ⟨rfl, rfl, rfl, rfl, rfl, State.blockReset_edgeSel _⟩
  exact ⟨State.blockReset_reset ▸ hblockReset State.reset, fun s rest hq => ⟨_, step_rst hq, hblockReset _⟩⟩

end Sys2Proof.Machine
end

section
/-! The ranges of the ranging state (10_state.md R23, R24): the ticks the decoder lets through, what the conversion of
40_ranging.md R101 and R103 can give, and the invariant over every step. -/

namespace Sys2Proof

open Sys2Proof.Machine

/-- A word decodes where its code selects a row and every check of that row's format passes (30_encoding.md R74). -/
theorem decode_eq_ok {c : Config} {w : OpWord} {i : Instr} :
    decode c w = .ok i ↔ ∃ op, opNameOf (opcField w) = some op ∧
      reservedZero c (formatOf op) (aField w) (bField w) = true ∧ tickOk c (formatOf op) (bField w) = true ∧
      operandsOk c (formatOf op) (aField w) (bField w) = true ∧ assembleOperands c (aField w) (bField w) op = i := by
  unfold decode
  cases opNameOf (opcField w) with
  | none => simp
  | some op =>
    simp only [Option.some.injEq, exists_eq_left']
    split_ifs <;> simp_all

theorem toNat_tickOperand_le (c : Config) (b : Operand) : (tickOperand c b).toNat ≤ b.toNat := by
  unfold tickOperand
  rw [BitVec.toNat_ofNat]
  exact (Nat.mod_le _ _).trans (Nat.mod_le _ _)

/-- TICK_RANGE keeps a capture above MAX_TICK from the block (30_encoding.md R74, R76). -/
theorem decode_echoCapture_le_maxTick {c : Config} {w : OpWord} {tick : Operand}
    (hdec : decode c w = .ok (.echoCapture tick)) : tick.toNat ≤ c.maxTick := by
  obtain ⟨op, -, -, htick, -, hop⟩ := decode_eq_ok.1 hdec
  cases op with
  | echoCapture =>
    obtain rfl : tickOperand c (bField w) = tick := Instr.echoCapture.inj hop
    exact (toNat_tickOperand_le c (bField w)).trans (of_decide_eq_true htick)
  | distRead | actInit | setSteer | setThrottle | drive => cases hop

end Sys2Proof

namespace Sys2Proof.Machine

open Sys2Proof.Safety

theorem elapsed_le {c : Config} {r f : Nat} (hr : r ≤ c.maxTick) (hf : f ≤ c.maxTick) :
    elapsed c r f ≤ c.maxTick + 1 := by
  unfold elapsed
  split_ifs <;> omega

theorem ticksToCm_lt (c : Config) (e : Nat) : ticksToCm c e < 2 ^ c.distW := by
  unfold ticksToCm
  split_ifs with hfits
  · exact hfits
  · exact Nat.mod_lt _ (Nat.two_pow_pos _)

/-- The free distance too: it stands in only for a quotient of at least 2 ^ DIST_W, which is above it (log 10). -/
theorem ticksToCm_le_div (c : Config) (e : Nat) : ticksToCm c e ≤ e / c.usPerCm := by
  by_cases hfits : e / c.usPerCm < 2 ^ c.distW
  · exact (if_pos hfits).le
  · exact (ticksToCm_lt c e).le.trans (not_lt.1 hfits)

theorem State.capture_rangingInRange {s : State} {tick : Nat} (h : rangingInRange s) (htick : tick ≤ s.cfg.maxTick) :
    rangingInRange (s.capture tick) := by
  obtain ⟨hrise, hfall, hquotient, hwidth⟩ := h
  cases hphase : s.phase with
  | awaitingRise =>
    rw [State.capture_awaitingRise s tick hphase]
    exact ⟨htick, hfall, hquotient, hwidth⟩
  | awaitingFall =>
    rw [State.capture_awaitingFall s tick hphase]
    have hdistance : ticksToCm s.cfg (elapsed s.cfg s.tRise tick) ≤ (s.cfg.maxTick + 1) / s.cfg.usPerCm :=
      (ticksToCm_le_div ..).trans (Nat.div_le_div_right (elapsed_le hrise htick))
    exact ⟨hrise, htick, hdistance, ticksToCm_lt ..⟩

theorem State.blockReset_rangingInRange (s : State) : rangingInRange s.blockReset :=
  ⟨Nat.zero_le _, Nat.zero_le _, Nat.zero_le _, Nat.two_pow_pos _⟩

/-- Only a capture has an effect on RNG's state (40_ranging.md R108). -/
theorem effect_sameRanging {i : Instr} (hi : isCapture i = false) (s : State) : sameRanging s (effect i s) := by
  cases i with
  | echoCapture => cases hi
  | distRead | actInit | setSteer | setThrottle | drive => simp [sameRanging, effect]

theorem rangingInRange_of_sameRanging {s t : State} (hcfg : t.cfg = s.cfg) (hsame : sameRanging s t)
    (h : rangingInRange s) : rangingInRange t := by
  obtain ⟨-, hrise, hfall, hdistance⟩ := hsame
  unfold rangingInRange
  rw [hcfg, hrise, hfall, hdistance]
  exact h

theorem effect_rangingInRange {s : State} {w : OpWord} {i : Instr} (hdec : decode s.cfg w = .ok i)
    (h : rangingInRange s) : rangingInRange (effect i s) := by
  cases i with
  | echoCapture tick => exact State.capture_rangingInRange h (decode_echoCapture_le_maxTick hdec)
  | distRead | actInit | setSteer | setThrottle | drive =>
    exact rangingInRange_of_sameRanging (effect_cfg _ s) (effect_sameRanging rfl s) h

/-- Settles O26: a step waits, resets the block, or performs an operation its word decodes to. -/
theorem stepKeepsRangingInRange : Obligations.StepKeepsRangingInRange := by
  intro s t h hstep
  obtain ⟨-, rfl⟩ | ⟨_, -, rfl⟩ | ⟨_, _, rest, i, -, -, hdec, rfl⟩ |
      ⟨_, _, _, _, _, -, -, -, ⟨-, rfl⟩ | ⟨-, rfl⟩⟩ := performEvent_eq_next hstep
  · exact h
  · exact State.blockReset_rangingInRange _
  · exact effect_rangingInRange (s := { s with opQueue := rest }) hdec h
  · exact State.blockReset_rangingInRange _
  · exact State.blockReset_rangingInRange _

/-- Settles O50: power-on has written nothing yet, and its channels are pairwise distinct channels of the 16. -/
theorem resetMeetsTheInvariants : Obligations.ResetMeetsTheInvariants := by
  have hranging : rangingInRange State.reset := State.blockReset_rangingInRange State.reset
  have hcanonical : Memory.wf [] := ⟨.nil, nofun⟩
  have hcfg : Config.hardware.WellFormed := (Config.withChannels_wellFormed_iff 0 1 2 3).2 (by decide)
  exact ⟨hranging, rfl, hcanonical, rfl, hcfg⟩

end Sys2Proof.Machine
end

section
/-! The mode cache is written and never read (10_state.md R32, 90_conflicts.md C6): a state with another value of it answers
every event alike. -/

namespace Sys2Proof.Machine

/-- The state with another value of the mode cache, everything else as it is. -/
def State.withModeCache (m : Byte) (s : State) : State := { s with modeCache := m }

/-- The answer with another value of the mode cache in its next state; a refusal holds none. -/
def Answer.withModeCache (m : Byte) : Answer → Answer
  | .next s => .next (s.withModeCache m)
  | .fault f => .fault f
  | .refused r => .refused r

/-! ### The shared operations -/

section shared
variable (m m' : Byte) (s t : State)

@[simp] theorem State.withModeCache_cfg : (s.withModeCache m).cfg = s.cfg := rfl

theorem State.withModeCache_busWrite (w : BusWrite) :
    (s.withModeCache m).busWrite w = (s.busWrite w).withModeCache m := rfl

theorem State.withModeCache_emit (ws : List BusWrite) :
    (s.withModeCache m).emit ws = (s.emit ws).withModeCache m := by
  induction ws generalizing s with
  | nil => rfl
  | cons w ws ih => rw [State.emit_cons, State.emit_cons, State.withModeCache_busWrite, ih]

theorem State.withModeCache_capture (tick : Nat) :
    (s.withModeCache m).capture tick = (s.capture tick).withModeCache m := by
  cases hphase : s.phase with
  | awaitingRise =>
    rw [State.capture_awaitingRise s tick hphase, State.capture_awaitingRise (s.withModeCache m) tick hphase]
    rfl
  | awaitingFall =>
    rw [State.capture_awaitingFall s tick hphase, State.capture_awaitingFall (s.withModeCache m) tick hphase]
    rfl

/-- Reset forgets the mode cache (10_state.md R35). -/
theorem State.withModeCache_blockReset : (s.withModeCache m).blockReset = s.blockReset := rfl

theorem State.withModeCache_markRefused : (s.withModeCache m).markRefused = s.markRefused.withModeCache m := rfl

theorem State.withModeCache_perform :
    (s.withModeCache m).perform (t.withModeCache m') = Answer.withModeCache m' (s.perform t) := by
  by_cases hwf : s.cfg.WellFormed
  · rw [State.perform_of_wellFormed hwf, State.perform_of_wellFormed (s := s.withModeCache m) hwf]
    rfl
  · rw [State.perform_of_illFormed hwf, State.perform_of_illFormed (s := s.withModeCache m) hwf]
    rfl

theorem thenReset_withModeCache (a : Answer) : thenReset (Answer.withModeCache m a) = thenReset a := by
  cases a <;> rfl

end shared

/-! ### Answers that differ in the mode cache alone -/

/-- Two answers that are alike but for the mode cache of their next states. -/
def AlikeButModeCache (a b : Answer) : Prop := ∃ m, b = Answer.withModeCache m a

theorem AlikeButModeCache.refl (a : Answer) : AlikeButModeCache a a := by
  cases a with
  | next s => exact ⟨s.modeCache, rfl⟩
  | fault f => cases f
  | refused r => exact ⟨0, rfl⟩

theorem AlikeButModeCache.of_eq {a b : Answer} (h : a = b) : AlikeButModeCache a b := h ▸ .refl a

section alike
variable (m : Byte) (s : State)

/-- ACT_INIT writes the mode cache from the configuration; every other effect leaves it as it is. -/
theorem effect_withModeCache (i : Instr) : ∃ m', effect i (s.withModeCache m) = (effect i s).withModeCache m' := by
  cases i with
  | echoCapture tick => exact ⟨m, State.withModeCache_capture m s tick.toNat⟩
  | distRead => exact ⟨m, rfl⟩
  | actInit =>
    have hwrites := State.withModeCache_emit m s (actInitWrites s.cfg)
    exact ⟨modeAwake s.cfg, (congrArg (State.withModeCache (modeAwake s.cfg)) hwrites :)⟩
  | setSteer | setThrottle | drive => exact ⟨m, State.withModeCache_emit m s _⟩

theorem exec_withModeCache (i : Instr) : AlikeButModeCache (exec i s) (exec i (s.withModeCache m)) := by
  obtain ⟨m', heffect⟩ := effect_withModeCache m s i
  rw [exec_eq_perform, exec_eq_perform, heffect]
  exact ⟨m', State.withModeCache_perform ..⟩

theorem opWrites_withModeCache (i : Instr) : opWrites i (s.withModeCache m) = opWrites i s := by cases i <;> rfl

theorem thenReset_exec_withModeCache (i : Instr) : thenReset (exec i (s.withModeCache m)) = thenReset (exec i s) := by
  obtain ⟨m', hexec⟩ := exec_withModeCache m s i
  rw [hexec, thenReset_withModeCache]

/-- Once the block is reset, no trace of the mode cache's value is left (10_state.md R35). -/
theorem performCut_withModeCache (i : Instr) (last : Nat) :
    performCut i last (s.withModeCache m) = performCut i last s := by
  unfold performCut
  rw [opWrites_withModeCache]
  split_ifs
  · rw [State.withModeCache_emit, State.withModeCache_blockReset]
    rfl
  · exact thenReset_exec_withModeCache m s i

theorem performCutWord_withModeCache (w : OpWord) (last : Nat) :
    performCutWord w last (s.withModeCache m) = performCutWord w last s := by
  unfold performCutWord
  simp only [State.withModeCache_cfg, performCut_withModeCache]

/-- What a word does before it is performed, the two refusals and the decoding, goes by the configuration alone. -/
theorem performWord_withModeCache (w : OpWord) :
    AlikeButModeCache (performWord w s) (performWord w (s.withModeCache m)) := by
  unfold performWord
  rw [State.withModeCache_cfg]
  split_ifs
  · cases decode s.cfg w with
    | ok i => exact exec_withModeCache m s i
    | error r => exact .refl _
  · exact .refl _

theorem step_withModeCache : AlikeButModeCache (step s) (step (s.withModeCache m)) := by
  rcases hq : s.opQueue with _ | ⟨_ | _ | _, rest⟩
  · rw [step_idle hq, step_idle (s := s.withModeCache m) hq]
    exact ⟨m, rfl⟩
  · rw [step_op hq, step_op (s := s.withModeCache m) hq]
    exact performWord_withModeCache m { s with opQueue := rest } _
  · rw [step_opCutByRst hq, step_opCutByRst (s := s.withModeCache m) hq]
    exact .of_eq (performCutWord_withModeCache m { s with opQueue := rest } ..).symm
  · rw [step_rst hq, step_rst (s := s.withModeCache m) hq]
    exact .refl (.next { s with opQueue := rest }.blockReset)

theorem turn_withModeCache : ∃ m', turn (s.withModeCache m) = (turn s).withModeCache m' := by
  obtain ⟨m', hstep⟩ := step_withModeCache m s
  unfold turn
  rw [hstep]
  cases step s with
  | next t => exact ⟨m', rfl⟩
  | fault f => cases f
  | refused r => exact ⟨m, State.withModeCache_markRefused m s⟩

end alike

/-- Settles O47, by induction on the number of turns, for every state and every value of the mode cache at once. -/
theorem modeCacheIsNeverObservable : Obligations.ModeCacheIsNeverObservable := by
  intro n
  induction n with
  | zero => exact fun s m => ⟨m, rfl⟩
  | succ n ih =>
    intro s m
    obtain ⟨m', hturn⟩ := turn_withModeCache m s
    obtain ⟨m'', hturns⟩ := ih (turn s) m'
    exact ⟨m'', (congrArg (turns n) hturn).trans hturns⟩

end Sys2Proof.Machine
end

section
/-! What an operation does on the device bus (20_memory.md R51, R52; 60_exceptions.md R206): it emits the writes of `opWrites`,
each names a register that 10_state.md R33 lists for it, and the controller's registers stay canonical. -/

namespace Sys2Proof.Machine

/-- Settles O43: one write is one delivery to the controller's registers, and its other effects are the bus agent's. -/
theorem busWriteReachesItsRegisterOnOk : Obligations.BusWriteReachesItsRegisterOnOk := by
  intro s w
  refine ⟨fun hok => ?_, fun htimeout => ?_, fun r hr => ?_, ⟨⟨rfl, rfl, rfl, rfl⟩, rfl⟩, ⟨rfl, rfl, rfl, rfl⟩,
    State.busWrite_bus s w⟩
  · rw [State.busWrite_controller, hok]
    exact Memory.read_deliver_ok _ w
  · rw [State.busWrite_controller, htimeout]
    exact Memory.deliver_timeout _ w
  · rw [State.busWrite_controller]
    exact Memory.read_deliver_other _ w _ r hr

/-! ### An operation reaches the controller by its writes alone -/

theorem effect_bus (i : Instr) (s : State) : (effect i s).bus = (s.emit (opWrites i s)).bus := by
  cases i with
  | echoCapture tick => exact State.capture_bus s tick.toNat
  | distRead | actInit | setSteer | setThrottle | drive => rfl

theorem effect_controller (i : Instr) (s : State) : (effect i s).controller = (s.emit (opWrites i s)).controller := by
  cases i with
  | echoCapture tick => exact State.capture_controller s tick.toNat
  | distRead | actInit | setSteer | setThrottle | drive => rfl

theorem effect_trace (i : Instr) (s : State) : (effect i s).trace = s.trace ++ opWrites i s :=
  (congrArg (List.map BusTxn.write) (effect_bus i s)).trans (State.trace_emit s _)

theorem effect_controller_wf (i : Instr) {s : State} (h : Memory.wf s.controller) :
    Memory.wf (effect i s).controller := by
  rw [effect_controller]
  exact State.emit_wf s _ h

/-- Settles O49: what a step does to the controller's registers is a list of bus writes, whole or cut, or nothing. -/
theorem stepKeepsControllerCanonical : Obligations.StepKeepsControllerCanonical := by
  intro s t h hstep
  obtain ⟨-, rfl⟩ | ⟨_, -, rfl⟩ | ⟨_, _, rest, i, -, -, -, rfl⟩ |
      ⟨_, _, _, rest, i, -, -, -, ⟨-, rfl⟩ | ⟨-, rfl⟩⟩ := performEvent_eq_next hstep
  · exact h
  · exact h
  · exact effect_controller_wf i (s := { s with opQueue := rest }) h
  · exact State.emit_wf { s with opQueue := rest } _ h
  · exact effect_controller_wf i (s := { s with opQueue := rest }) h

/-! ### The registers an operation names -/

/-- Every write of the list is to one of the four registers of a configured channel (10_state.md R33). -/
def WritesChannels (c : Config) (ws : List BusWrite) : Prop :=
  ∀ w ∈ ws, ∃ ch ∈ [c.chSteer, c.chPwm, c.chDirPos, c.chDirNeg], ∃ k < 4,
    w.reg = BitVec.ofNat 8 (c.regLedBase + 4 * ch + k)

section channels
variable {c : Config}

theorem WritesChannels.append {ws vs : List BusWrite} (hws : WritesChannels c ws) (hvs : WritesChannels c vs) :
    WritesChannels c (ws ++ vs) :=
  List.forall_mem_append.2 ⟨hws, hvs⟩

theorem writesChannels_writeChannel {ch : Nat} (hch : ch ∈ [c.chSteer, c.chPwm, c.chDirPos, c.chDirNeg])
    (on off : Count) : WritesChannels c (writeChannel c ch on off) := by
  intro w hw
  obtain ⟨k, hk, hreg⟩ : ∃ k < 4, w.reg = regAddr (regOnL c ch + k) := by
    simp only [writeChannel, List.mem_cons, List.not_mem_nil, or_false] at hw
    obtain rfl | rfl | rfl | rfl := hw
    exacts [⟨0, by decide, rfl⟩, ⟨1, by decide, rfl⟩, ⟨2, by decide, rfl⟩, ⟨3, by decide, rfl⟩]
  exact ⟨ch, hch, k, hk, hreg⟩

theorem writesChannels_steerWrites (angle : Int) : WritesChannels c (steerWrites c angle) :=
  writesChannels_writeChannel (by simp) _ _

theorem writesChannels_directionWrites (v : Int) : WritesChannels c (directionWrites c v) := by
  have hpos (p : CountPair) : WritesChannels c (writeChannelPair c c.chDirPos p) :=
    writesChannels_writeChannel (by simp) _ _
  have hneg (p : CountPair) : WritesChannels c (writeChannelPair c c.chDirNeg p) :=
    writesChannels_writeChannel (by simp) _ _
  unfold directionWrites
  split_ifs
  · exact (hneg _).append (hpos _)
  · exact (hpos _).append (hneg _)
  · exact (hpos _).append (hneg _)

theorem writesChannels_throttleWrites (speed : Int) : WritesChannels c (throttleWrites c speed) :=
  (writesChannels_directionWrites _).append (writesChannels_writeChannel (by simp) _ _)

/-- Only ACT_INIT writes outside the configured channels. -/
theorem writesChannels_opWrites {i : Instr} (hi : i ≠ .actInit) (s : State) : WritesChannels s.cfg (opWrites i s) := by
  cases i with
  | actInit => exact absurd rfl hi
  | echoCapture | distRead => exact nofun
  | setSteer angle => exact writesChannels_steerWrites _
  | setThrottle speed => exact writesChannels_throttleWrites _
  | drive throttle steer => exact (writesChannels_throttleWrites _).append (writesChannels_steerWrites _)

/-- ACT_INIT writes the mode, prescale and ALL registers (41_actuator.md R124). -/
theorem actInitWrites_reg_mem : ∀ w ∈ actInitWrites c, w.reg ∈ [c.regMode1, c.regMode2, c.regPrescale, c.regAllBase,
    c.regAllBase + 1, c.regAllBase + 2, c.regAllBase + 3].map (BitVec.ofNat 8) := by
  simp [actInitWrites, regWrite, regAddr]

end channels

/-- Settles O44: the writes are those of `opWrites`, and only ACT_INIT's leave the configured channels. -/
theorem onlyListedRegistersAreWritten : Obligations.OnlyListedRegistersAreWritten := by
  intro i s t hexec
  obtain ⟨-, rfl⟩ := exec_eq_next.1 hexec
  refine ⟨opWrites i s, effect_trace i s, fun r hr => ?_, fun w hw => ?_⟩
  · rw [effect_controller]
    exact State.emit_read_other s _ r hr
  · by_cases hi : i = .actInit
    · subst hi
      exact .inl ⟨actInitWrites_reg_mem w hw, rfl⟩
    · obtain ⟨ch, hch, k, hk, hreg⟩ := writesChannels_opWrites hi s w hw
      exact .inr ⟨ch, hch, k, hk, hreg, hi⟩

end Sys2Proof.Machine
end

section
/-! An operation's word decodes to the operation (30_encoding.md R70, R71, R73, R75), and the ports' order is the order of
performance (20_memory.md R60): an operation does not look at the events still to come. -/

namespace Sys2Proof

open Sys2Proof.Machine

theorem opNameOf_opcodeOf (op : OpName) : opNameOf (opcodeOf op) = some op := by cases op <;> rfl

/-- A tick that fits its field is the whole of it. -/
theorem tickOperand_of_tickFits {c : Config} {b : Operand} (h : tickFits c b = true) : tickOperand c b = b := by
  unfold tickOperand
  rw [Nat.mod_eq_of_lt (of_decide_eq_true h), BitVec.ofNat_toNat, BitVec.setWidth_eq]

/-- A well-formed operation's fields pass every check of its row's format, and the row makes the operation of them. -/
theorem operandFields_of_wellFormed {c : Config} {i : Instr} (h : i.wellFormed c = true) :
    reservedZero c (formatOf i.name) (operandFields i).1 (operandFields i).2 = true ∧
      tickOk c (formatOf i.name) (operandFields i).2 = true ∧
      operandsOk c (formatOf i.name) (operandFields i).1 (operandFields i).2 = true ∧
      assembleOperands c (operandFields i).1 (operandFields i).2 i.name = i := by
  cases i with
  | echoCapture tick =>
    obtain ⟨hfits, hrange⟩ := Bool.and_eq_true_iff.1 h
    exact ⟨hfits, hrange, rfl, congrArg Instr.echoCapture (tickOperand_of_tickFits hfits)⟩
  | distRead | actInit => exact ⟨rfl, rfl, rfl, rfl⟩
  | setSteer | setThrottle | drive => exact ⟨rfl, rfl, h, rfl⟩

theorem decode_encode {c : Config} {i : Instr} (h : i.wellFormed c = true) : decode c (encode i) = .ok i := by
  unfold encode
  rw [decode_eq_ok, opcField_packWord, aField_packWord, bField_packWord]
  exact ⟨i.name, opNameOf_opcodeOf _, operandFields_of_wellFormed h⟩

end Sys2Proof

namespace Sys2Proof.Machine

/-! ### Other events at the ports -/

/-- The state with other events at its ports, everything else as it is. -/
def State.withQueue (q : List PortEvent) (s : State) : State := { s with opQueue := q }

section queue
variable (q : List PortEvent) (s : State)

@[simp] theorem State.withQueue_cfg : (s.withQueue q).cfg = s.cfg := rfl

@[simp] theorem State.withQueue_opQueue : (s.withQueue q).opQueue = q := rfl

@[simp] theorem State.withQueue_withQueue (q' : List PortEvent) : (s.withQueue q').withQueue q = s.withQueue q := rfl

theorem State.withQueue_emit (ws : List BusWrite) : (s.withQueue q).emit ws = (s.emit ws).withQueue q :=
  List.foldl_hom (State.withQueue q) fun _ _ => rfl

theorem State.withQueue_capture (tick : Nat) : (s.withQueue q).capture tick = (s.capture tick).withQueue q := by
  cases hphase : s.phase with
  | awaitingRise =>
    rw [State.capture_awaitingRise s tick hphase, State.capture_awaitingRise (s.withQueue q) tick hphase]
    rfl
  | awaitingFall =>
    rw [State.capture_awaitingFall s tick hphase, State.capture_awaitingFall (s.withQueue q) tick hphase]
    rfl

theorem effect_withQueue (i : Instr) : effect i (s.withQueue q) = (effect i s).withQueue q := by
  cases i with
  | echoCapture tick => exact State.withQueue_capture q s tick.toNat
  | distRead => rfl
  | actInit =>
    have hwrites := State.withQueue_emit q s (actInitWrites s.cfg)
    exact congrArg (fun u => { u with modeCache := modeAwake s.cfg }) hwrites
  | setSteer | setThrottle | drive => exact State.withQueue_emit q s _

end queue

/-! ### A list of operations -/

theorem execAll_cons_eq_next {i : Instr} {is : List Instr} {s t : State} :
    execAll (i :: is) s = .next t ↔ s.cfg.WellFormed ∧ execAll is (effect i s) = .next t := by
  rw [execAll, exec_eq_perform]
  by_cases hwf : s.cfg.WellFormed
  · rw [State.perform_of_wellFormed hwf]
    exact ⟨fun hrest => ⟨hwf, hrest⟩, And.right⟩
  · rw [State.perform_of_illFormed hwf]
    exact ⟨nofun, fun h => absurd h.1 hwf⟩

/-- What every operation of a list keeps, the list keeps. -/
theorem execAll_keeps {P : State → Prop} {ops : List Instr} (hops : ∀ i ∈ ops, ∀ s, P s → P (effect i s))
    {s t : State} (hs : P s) (h : execAll ops s = .next t) : P t := by
  induction ops generalizing s with
  | nil => exact Host.Outcome.next.inj h ▸ hs
  | cons i ops ih =>
    obtain ⟨-, hrest⟩ := execAll_cons_eq_next.1 h
    obtain ⟨hi, hops⟩ := List.forall_mem_cons.1 hops
    exact ih hops (hi s hs) hrest

/-- A turn with a well-formed operation's word first at the ports performs the operation. -/
theorem turn_op_encode {s : State} {by_ : Issuer} {i : Instr} {rest : List PortEvent}
    (hq : s.opQueue = .op by_ (encode i) :: rest) (hwf : s.cfg.WellFormed) (hi : i.wellFormed s.cfg = true) :
    turn s = effect i (s.withQueue rest) := by
  have hstep : step s = .next (effect i (s.withQueue rest)) :=
    (stepPerformsThePresentedOperation s by_ _ rest i hq hwf (decode_encode hi)).trans (exec_eq_next.2 ⟨hwf, rfl⟩)
  unfold turn
  rw [hstep]

/-- Settles O8, by induction on the operations, for every state at once: a turn performs the first, and what is then to come
at the ports is the rest. -/
theorem operationsArePerformedInPresentationOrder : Obligations.OperationsArePerformedInPresentationOrder := by
  intro ops
  induction ops with
  | nil =>
    intro s t _ hq hall
    obtain rfl : s.withQueue [] = t := Host.Outcome.next.inj hall
    exact congrArg (s.withQueue ·) hq
  | cons p ops ih =>
    intro s t hops hq hall
    obtain ⟨hp, hops⟩ := List.forall_mem_cons.1 hops
    obtain ⟨hwf, hrest⟩ := execAll_cons_eq_next.1 hall
    have hturn := turn_op_encode hq hwf hp
    have hcfg : (turn s).cfg = s.cfg := by rw [hturn, effect_cfg, State.withQueue_cfg]
    have hqueue : (turn s).opQueue = ops.map (fun p => PortEvent.op p.1 (encode p.2)) := by
      rw [hturn, effect_opQueue, State.withQueue_opQueue]
    have hunpresented : (turn s).withQueue [] = effect p.2 (s.withQueue []) := by
      rw [hturn, ← effect_withQueue, State.withQueue_withQueue]
    exact ih (turn s) t (hcfg ▸ hops) hqueue ((congrArg (execAll _) hunpresented).trans hrest)

end Sys2Proof.Machine
end

section
/-! The published distance between one capture and the next (20_memory.md R61, 40_ranging.md R105, R108): no other operation
touches RNG's state. -/

namespace Sys2Proof.Machine

open Sys2Proof.Safety

/-- Operations other than ECHO_CAPTURE leave RNG's state and the configuration, however many (40_ranging.md R108). -/
theorem execAll_sameRanging {ops : List Instr} (hops : ∀ i ∈ ops, isCapture i = false) {s t : State}
    (h : execAll ops s = .next t) : sameRanging s t ∧ t.cfg = s.cfg := by
  refine execAll_keeps (P := fun v => sameRanging s v ∧ v.cfg = s.cfg) (fun i hi v hv => ?_)
    ⟨⟨rfl, rfl, rfl, rfl⟩, rfl⟩ h
  obtain ⟨⟨hphase, hrise, hfall, hdistance⟩, hcfg⟩ := hv
  obtain ⟨hphase', hrise', hfall', hdistance'⟩ := effect_sameRanging (hops i hi) v
  exact ⟨⟨hphase'.trans hphase, hrise'.trans hrise, hfall'.trans hfall, hdistance'.trans hdistance⟩,
    (effect_cfg i v).trans hcfg⟩

/-- The rising edge starts a measurement and publishes nothing (40_ranging.md R102). -/
theorem State.capture_distanceCm_of_awaitingRise {s : State} (h : s.phase = .awaitingRise) (tick : Nat) :
    (s.capture tick).distanceCm = s.distanceCm := by
  rw [State.capture_awaitingRise s tick h]

/-- Settles O22: the distance is the measurement's, and the phase is AWAITING_RISE, from the second capture on. -/
theorem readReturnsTheLatestMeasurement : Obligations.ReadReturnsTheLatestMeasurement := by
  intro s t u fall others hphase hfall hothers hall
  obtain ⟨hwf, rfl⟩ := exec_eq_next.1 hfall
  obtain ⟨⟨huphase, -, -, hudistance⟩, hucfg⟩ := execAll_sameRanging hothers hall
  have hcapture : effect (.echoCapture fall) s = _ := State.capture_awaitingFall s fall.toNat hphase
  rw [hcapture] at huphase hudistance hucfg
  refine ⟨⟨effect .distRead u, exec_eq_next.2 ⟨hucfg ▸ hwf, rfl⟩, ?_⟩, fun rise w hrise => ?_⟩
  · exact congrArg (fun d => u.results ++ [d]) hudistance
  · obtain ⟨-, hw⟩ := exec_eq_next.1 hrise
    exact hw ▸ State.capture_distanceCm_of_awaitingRise huphase rise.toNat

end Sys2Proof.Machine
end

section
/-! A word and the operation it decodes to hold the same information (30_encoding.md R70, R71, R73, R74), and the written-out
words (R80). -/

namespace Sys2Proof

open Sys2Proof.Machine

theorem opNameOf_eq_some {opc : Byte} {op : OpName} : opNameOf opc = some op ↔ opc = opcodeOf op := by
  constructor
  · unfold opNameOf
    split_ifs <;> rintro ⟨⟩ <;> assumption
  · rintro rfl
    exact opNameOf_opcodeOf op

/-- The three fields are the whole word (30_encoding.md R70). -/
theorem packWord_fields (w : OpWord) : packWord (opcField w) (aField w) (bField w) = w := by
  have hhigh : opcField w ++ aField w = w.extractLsb' 32 40 :=
    BitVec.extractLsb'_append_extractLsb'_eq_extractLsb' rfl
  have hall : w.extractLsb' 32 40 ++ bField w = w.extractLsb' 0 72 :=
    BitVec.extractLsb'_append_extractLsb'_eq_extractLsb' rfl
  unfold packWord
  rw [hhigh, hall, BitVec.extractLsb'_eq_self]

/-- Operand fields that pass the checks of a row's format make a well-formed operation of that row, whose fields they are. -/
theorem assembleOperands_of_checks {c : Config} {op : OpName} {a b : Operand}
    (hzero : reservedZero c (formatOf op) a b = true) (htick : tickOk c (formatOf op) b = true)
    (hrange : operandsOk c (formatOf op) a b = true) :
    (assembleOperands c a b op).wellFormed c = true ∧ (assembleOperands c a b op).name = op ∧
      operandFields (assembleOperands c a b op) = (a, b) := by
  cases op with
  | echoCapture =>
    obtain ⟨ha, hfits⟩ := Bool.and_eq_true_iff.1 hzero
    obtain rfl := of_decide_eq_true ha
    simp only [assembleOperands, tickOperand_of_tickFits hfits]
    exact ⟨Bool.and_eq_true_iff.2 ⟨hfits, htick⟩, rfl, rfl⟩
  | distRead | actInit =>
    obtain ⟨ha, hb⟩ := Bool.and_eq_true_iff.1 hzero
    obtain ⟨rfl, rfl⟩ := And.intro (of_decide_eq_true ha) (of_decide_eq_true hb)
    exact ⟨rfl, rfl, rfl⟩
  | setSteer | setThrottle =>
    obtain rfl := of_decide_eq_true hzero
    exact ⟨hrange, rfl, rfl⟩
  | drive => exact ⟨hrange, rfl, rfl⟩

/-- What a decoded operation says about its word, field by field. -/
theorem fields_of_decode {c : Config} {w : OpWord} {i : Instr} (h : decode c w = .ok i) :
    i.wellFormed c = true ∧ opcField w = opcodeOf i.name ∧ operandFields i = (aField w, bField w) := by
  obtain ⟨op, hop, hzero, htick, hrange, rfl⟩ := decode_eq_ok.1 h
  obtain ⟨hwf, hname, hfields⟩ := assembleOperands_of_checks hzero htick hrange
  exact ⟨hwf, hname.symm ▸ opNameOf_eq_some.1 hop, hfields⟩

/-- Settles O1: an operation's fields come back from its word and pass its row's checks. -/
theorem decodeOfEncodeIsTheOperation : Obligations.DecodeOfEncodeIsTheOperation :=
  fun _ _ => decode_encode

/-- Settles O2: the operation has the word's three fields, and these are the whole word. -/
theorem decodedWordIsTheEncoding : Obligations.DecodedWordIsTheEncoding := by
  intro c w i h
  obtain ⟨hwf, hopc, hfields⟩ := fields_of_decode h
  refine ⟨hwf, ?_⟩
  unfold encode
  rw [hfields, ← hopc]
  exact packWord_fields w

theorem decode_of_encode_eq {c : Config} {i : Instr} {w : OpWord} (hword : encode i = w)
    (hwf : i.wellFormed c = true) : decode c w = .ok i :=
  hword ▸ decode_encode hwf

/-- Settles O3: each word is the encoding of its operation, which is well-formed whatever the channels are bound to. -/
theorem writtenOutWordsDecode : Obligations.WrittenOutWordsDecode :=
  ⟨rfl, rfl, rfl, fun _ _ _ _ =>
    ⟨decode_of_encode_eq rfl rfl, decode_of_encode_eq rfl rfl, decode_of_encode_eq rfl rfl,
      decode_of_encode_eq rfl rfl, decode_of_encode_eq rfl rfl, decode_of_encode_eq rfl rfl⟩⟩

end Sys2Proof
end

section
/-! The word's fields as numbers (30_encoding.md R70, R75), and the reasons of 30_encoding.md R76 in terms of them. -/

namespace Sys2Proof

open Sys2Proof.Machine

/-! ### The fields -/

theorem toNat_opcField (w : OpWord) : (opcField w).toNat = w.toNat / 2 ^ 64 := by
  unfold opcField
  rw [BitVec.extractLsb'_toNat, Nat.shiftRight_eq_div_pow]
  omega

theorem toNat_aField (w : OpWord) : (aField w).toNat = w.toNat / 2 ^ 32 % 2 ^ 32 := by
  unfold aField
  rw [BitVec.extractLsb'_toNat, Nat.shiftRight_eq_div_pow]

theorem toNat_bField (w : OpWord) : (bField w).toNat = w.toNat % 2 ^ 32 := by
  unfold bField
  rw [BitVec.extractLsb'_toNat, Nat.shiftRight_zero]

/-- A 32-bit number read as s32 two's complement (30_encoding.md R75). -/
def s32OfNat (v : Nat) : Int := if v < 2 ^ 31 then v else v - 2 ^ 32

theorem signedValue_eq_s32OfNat (v : Operand) : signedValue v = s32OfNat v.toNat := by
  unfold signedValue s32OfNat
  rw [BitVec.toInt_eq_toNat_cond]
  split_ifs <;> omega

theorem commandInRange_iff {c : Config} {v : Operand} :
    commandInRange c v = true ↔
      -(2 ^ (c.cmdW - 1) : Nat) ≤ signedValue v ∧ signedValue v ≤ ((2 ^ (c.cmdW - 1) : Nat) : Int) - 1 := by
  rw [Int.le_sub_one_iff]
  unfold commandInRange
  rw [Bool.and_eq_true_iff, decide_eq_true_iff, decide_eq_true_iff]

/-- Settles O5: a decoded operation has the word's operand fields and is well-formed. -/
theorem operandsAreTheWordsFields : Obligations.OperandsAreTheWordsFields := by
  intro c w a b s32 inside
  have ha : signedValue (aField w) = s32 a := by rw [signedValue_eq_s32OfNat, toNat_aField]; rfl
  have hb : signedValue (bField w) = s32 b := by rw [signedValue_eq_s32OfNat, toNat_bField]; rfl
  have hinside : ∀ v, commandInRange c v = true → inside (signedValue v) := fun _ => commandInRange_iff.1
  have hcommand : ∀ v, v = bField w → commandInRange c v = true → signedValue v = s32 b ∧ inside (signedValue v) :=
    fun v hv hrange => ⟨hv ▸ hb, hinside v hrange⟩
  refine ⟨fun t h => ?_, fun v h => ?_, fun v h => ?_, fun u v h => ?_⟩
  · obtain ⟨hwf, -, hfields⟩ := fields_of_decode h
    obtain ⟨hfits, htick⟩ := Bool.and_eq_true_iff.1 hwf
    obtain rfl : t = bField w := congrArg Prod.snd hfields
    have ht := toNat_bField w
    exact ⟨ht ▸ (Nat.mod_eq_of_lt (of_decide_eq_true hfits)).symm, of_decide_eq_true htick⟩
  · obtain ⟨hwf, -, hfields⟩ := fields_of_decode h
    exact hcommand v (congrArg Prod.snd hfields) hwf
  · obtain ⟨hwf, -, hfields⟩ := fields_of_decode h
    exact hcommand v (congrArg Prod.snd hfields) hwf
  · obtain ⟨hwf, -, hfields⟩ := fields_of_decode h
    obtain ⟨hu, hv⟩ := Bool.and_eq_true_iff.1 hwf
    obtain ⟨hsteer, hsteerInside⟩ := hcommand v (congrArg Prod.snd hfields) hv
    obtain rfl : u = aField w := congrArg Prod.fst hfields
    exact ⟨ha, hsteer, hinside _ hu, hsteerInside⟩

/-! ### The reasons -/

/-- BAD_OPC: the code is none of 30_encoding.md R73. -/
def BadOpc (opc : Nat) : Prop := opc = 0 ∨ 7 ≤ opc

/-- NONZERO_RESERVED: a must-be-zero bit of the code's format is 1 (30_encoding.md R71). -/
def NonzeroReserved (c : Config) (opc a b : Nat) : Prop :=
  ((opc = 2 ∨ opc = 3) ∧ (a ≠ 0 ∨ b ≠ 0)) ∨ (opc = 1 ∧ (a ≠ 0 ∨ 2 ^ c.tickW ≤ b)) ∨ ((opc = 4 ∨ opc = 5) ∧ a ≠ 0)

/-- TICK_RANGE: an ECHO_CAPTURE above MAX_TICK (30_encoding.md R74). -/
def TickAboveMax (c : Config) (opc b : Nat) : Prop := opc = 1 ∧ c.maxTick < b

/-- A field that, read as s32, is outside the sCMD_W range (30_encoding.md R75). -/
def OutsideCommand (c : Config) (v : Nat) : Prop :=
  s32OfNat v < -(2 ^ (c.cmdW - 1) : Nat) ∨ ((2 ^ (c.cmdW - 1) : Nat) : Int) - 1 < s32OfNat v

/-- OPERAND_RANGE: a signed operand of the code's format is outside the sCMD_W range (30_encoding.md R76). -/
def CommandOutside (c : Config) (opc a b : Nat) : Prop :=
  ((opc = 4 ∨ opc = 5 ∨ opc = 6) ∧ OutsideCommand c b) ∨ (opc = 6 ∧ OutsideCommand c a)

theorem opNameOf_eq_none {opc : Byte} : opNameOf opc = none ↔ BadOpc opc.toNat := by
  constructor
  · intro hnone
    unfold opNameOf at hnone
    split_ifs at hnone
    unfold BadOpc
    bv_omega
  · intro hbad
    cases hop : opNameOf opc with
    | none => rfl
    | some op =>
      obtain rfl := opNameOf_eq_some.1 hop
      cases op <;> exact absurd hbad (by unfold BadOpc; decide)

theorem commandInRange_iff_not_outside {c : Config} {v : Operand} :
    commandInRange c v = true ↔ ¬ OutsideCommand c v.toNat := by
  rw [commandInRange_iff, signedValue_eq_s32OfNat, OutsideCommand, not_or, not_lt, not_lt]

section row
variable (c : Config) (op : OpName) (a b : Operand)

theorem reservedZero_iff :
    reservedZero c (formatOf op) a b = true ↔ ¬ NonzeroReserved c (opcodeOf op).toNat a.toNat b.toNat := by
  have hzero : ∀ v : Operand, v = 0#32 ↔ v.toNat = 0 := fun v => BitVec.toNat_inj.symm
  cases op <;> simp [reservedZero, formatOf, NonzeroReserved, opcodeOf, tickFits, hzero]

theorem tickOk_iff : tickOk c (formatOf op) b = true ↔ ¬ TickAboveMax c (opcodeOf op).toNat b.toNat := by
  cases op <;> simp [tickOk, formatOf, TickAboveMax, opcodeOf, tickInRange]

theorem operandsOk_iff :
    operandsOk c (formatOf op) a b = true ↔ ¬ CommandOutside c (opcodeOf op).toNat a.toNat b.toNat := by
  cases op <;> simp [operandsOk, formatOf, CommandOutside, opcodeOf, commandInRange_iff_not_outside, and_comm]

end row

/-- The verdict that goes with the first reason that applies to a word's fields, in the order of 60_exceptions.md R203.
Which operation a legal word is, `fields_of_decode` says. -/
inductive FirstReason (c : Config) (opc a b : Nat) : Except IllegalReason Instr → Prop
  | badOpc (hbad : BadOpc opc) : FirstReason c opc a b (.error .badOpc)
  | nonzeroReserved (hopc : ¬ BadOpc opc) (hnonzero : NonzeroReserved c opc a b) :
    FirstReason c opc a b (.error .nonzeroReserved)
  | tickRange (hopc : ¬ BadOpc opc) (hzero : ¬ NonzeroReserved c opc a b) (habove : TickAboveMax c opc b) :
    FirstReason c opc a b (.error .tickRange)
  | operandRange (hopc : ¬ BadOpc opc) (hzero : ¬ NonzeroReserved c opc a b) (htick : ¬ TickAboveMax c opc b)
      (houtside : CommandOutside c opc a b) : FirstReason c opc a b (.error .operandRange)
  | legal (hopc : ¬ BadOpc opc) (hzero : ¬ NonzeroReserved c opc a b) (htick : ¬ TickAboveMax c opc b)
      (hrange : ¬ CommandOutside c opc a b) (i : Instr) : FirstReason c opc a b (.ok i)

theorem firstReason_decode (c : Config) (w : OpWord) :
    FirstReason c (opcField w).toNat (aField w).toNat (bField w).toNat (decode c w) := by
  unfold decode
  cases hop : opNameOf (opcField w) with
  | none => exact .badOpc (opNameOf_eq_none.1 hop)
  | some op =>
    have hopc : ¬ BadOpc (opcField w).toNat := fun hbad => by cases hop.symm.trans (opNameOf_eq_none.2 hbad)
    have hrow := opNameOf_eq_some.1 hop
    dsimp only
    split_ifs with hzero htick hrange <;> simp only [reservedZero_iff, tickOk_iff, operandsOk_iff, ← hrow, not_not] at *
    · exact .legal hopc hzero htick hrange _
    · exact .operandRange hopc hzero htick hrange
    · exact .tickRange hopc hzero htick
    · exact .nonzeroReserved hopc hzero

/-! The reasons exclude each other in their order, so each verdict is given exactly where its reason is the first. -/

section verdict
variable {c : Config} {opc a b : Nat} {v : Except IllegalReason Instr} (h : FirstReason c opc a b v)
include h

theorem FirstReason.badOpc_iff : v = .error .badOpc ↔ BadOpc opc := by
  cases h <;> simp [*]

theorem FirstReason.nonzeroReserved_iff : v = .error .nonzeroReserved ↔ ¬ BadOpc opc ∧ NonzeroReserved c opc a b := by
  cases h <;> simp [*]

theorem FirstReason.tickRange_iff :
    v = .error .tickRange ↔ ¬ BadOpc opc ∧ ¬ NonzeroReserved c opc a b ∧ TickAboveMax c opc b := by
  cases h <;> simp [*]

theorem FirstReason.operandRange_iff :
    v = .error .operandRange ↔
      ¬ BadOpc opc ∧ ¬ NonzeroReserved c opc a b ∧ ¬ TickAboveMax c opc b ∧ CommandOutside c opc a b := by
  cases h <;> simp [*]

theorem FirstReason.legal_iff :
    (∃ i, v = .ok i) ↔
      ¬ BadOpc opc ∧ ¬ NonzeroReserved c opc a b ∧ ¬ TickAboveMax c opc b ∧ ¬ CommandOutside c opc a b := by
  cases h <;> simp [*]

end verdict

/-- A 32-bit field always fits a command of at least 32 bits. -/
theorem not_outsideCommand_of_le {c : Config} (hwide : 32 ≤ c.cmdW) {v : Nat} (hv : v < 2 ^ 32) :
    ¬ OutsideCommand c v := by
  have hpow : 2 ^ 31 ≤ 2 ^ (c.cmdW - 1) := Nat.pow_le_pow_right (by decide) (by omega)
  unfold OutsideCommand s32OfNat
  split_ifs <;> omega

/-- Under a well-formed configuration a tick above MAX_TICK does not fit its field (00_scope.md R8). -/
theorem nonzeroReserved_of_tickAboveMax {c : Config} (hwf : c.WellFormed) {opc a b : Nat} (h : TickAboveMax c opc b) :
    NonzeroReserved c opc a b := by
  obtain ⟨hopc, habove⟩ := h
  obtain ⟨hmax, -⟩ := hwf
  exact .inr (.inl ⟨hopc, .inr (by omega)⟩)

/-- Settles O4: the reasons exclude each other in their order, so the one whose verdict is given is the first. -/
theorem verdictIsTheFirstReason : Obligations.VerdictIsTheFirstReason := by
  intro c w opc a b s32 outside badOpc nonzero tick range
  have hverdict : FirstReason c opc a b (decode c w) := by
    have h := firstReason_decode c w
    rwa [toNat_opcField, toNat_aField, toNat_bField] at h
  have hrow : ∀ i, decode c w = .ok i → opc = (opcodeOf i.name).toNat := fun i hi => by
    obtain ⟨-, hopc, -⟩ := fields_of_decode hi
    rw [← hopc, toNat_opcField]
  have hwide : 32 ≤ c.cmdW → ¬ range := fun h => by
    have ha : ¬ outside a := not_outsideCommand_of_le h (Nat.mod_lt _ (Nat.two_pow_pos 32))
    have hb : ¬ outside b := not_outsideCommand_of_le h (Nat.mod_lt _ (Nat.two_pow_pos 32))
    exact fun hrange => hrange.elim (fun hr => hb hr.2) fun hr => ha hr.2
  refine ⟨hverdict.badOpc_iff, hverdict.nonzeroReserved_iff, hverdict.tickRange_iff, hverdict.operandRange_iff,
    hverdict.legal_iff, fun i hi => ?_, fun h hdec => ?_, fun hwf hdec => ?_⟩
  · cases i <;> exact hrow _ hi
  · obtain ⟨-, -, -, hrange⟩ := hverdict.operandRange_iff.1 hdec
    exact hwide h hrange
  · obtain ⟨-, hzero, habove⟩ := hverdict.tickRange_iff.1 hdec
    exact hzero (nonzeroReserved_of_tickAboveMax hwf habove)

end Sys2Proof
end

section
/-! The bytes of a channel update (30_encoding.md R81) and the pseudo-operations (R79). -/

namespace Sys2Proof.Machine

/-! ### A channel update -/

theorem toNat_lo8 (v : Count) : (lo8 v).toNat = v.toNat % 256 := by
  unfold lo8
  rw [BitVec.extractLsb'_toNat, Nat.shiftRight_zero]

theorem toNat_hi8 (v : Count) : (hi8 v).toNat = v.toNat / 256 := by
  unfold hi8
  rw [BitVec.extractLsb'_toNat, Nat.shiftRight_eq_div_pow]
  omega

/-- Settles O32: the two bytes are the remainder and the quotient of the count by 256. -/
theorem channelUpdateBytes : Obligations.ChannelUpdateBytes := by
  refine ⟨fun _ _ _ _ => rfl, fun v => ?_, fun v hv => ?_, rfl, rfl⟩
  · rw [toNat_lo8, toNat_hi8]
    exact (Nat.mod_add_div _ _).symm
  · rw [toNat_hi8]
    omega

/-! ### The pseudo-operations -/

section asm
variable (c : Config)

theorem assembleOp_coast : assembleOp c "coast" [] = .ok [.setThrottle 0] := rfl

theorem assembleOp_center : assembleOp c "center" [] = .ok [.setSteer 0] := rfl

theorem assembleOp_setThrottle (a : List Char) :
    assembleOp c "set_throttle" [a] = (signedLiteral a).map fun v => [.setThrottle v] := rfl

theorem assembleOp_setSteer (a : List Char) :
    assembleOp c "set_steer" [a] = (signedLiteral a).map fun v => [.setSteer v] := rfl

theorem assembleOp_echoCapture (t : List Char) :
    assembleOp c "echo_capture" [t] = (tickLiteral c t).map fun v => [.echoCapture v] := rfl

theorem assembleOp_measure (r f : List Char) :
    assembleOp c "measure" [r, f] =
      (tickLiteral c r).bind fun u => (tickLiteral c f).map fun v => [.echoCapture u, .echoCapture v] := rfl

theorem signedLiteral_zero : signedLiteral ['0'] = .ok 0 := by
  have hread : readLiteral ['0'] = some (.dec 0) := rfl
  unfold signedLiteral
  rw [hread]
  exact if_pos (by decide)

/-- `measure` reports what its two captures would, the first one's error first. -/
theorem assembleOp_measure_eq_captures (r f : List Char) :
    assembleOp c "measure" [r, f] =
      (assembleOp c "echo_capture" [r]).bind fun x => (assembleOp c "echo_capture" [f]).map fun y => x ++ y := by
  rw [assembleOp_measure, assembleOp_echoCapture, assembleOp_echoCapture]
  cases tickLiteral c r with
  | error e => rfl
  | ok u =>
    cases tickLiteral c f with
    | error e => rfl
    | ok v => rfl

end asm

/-- Two captures from AWAITING_RISE are one whole measurement (40_ranging.md R102). -/
theorem State.capture_capture {s : State} (h : s.phase = .awaitingRise) (r f : Nat) :
    (s.capture r).capture f = { s with
      tRise := r
      tFall := f
      distanceCm := ticksToCm s.cfg (elapsed s.cfg r f)
      phase := .awaitingRise } := by
  rw [State.capture_awaitingRise s r h]
  exact State.capture_awaitingFall _ f rfl

/-- Settles O51: each line's text assembles by its mnemonic's equation, and the two captures run through both phases. -/
theorem pseudoOperationsExpand : Obligations.PseudoOperationsExpand := by
  refine ⟨fun c => ⟨?_, ?_⟩, assembleOp_measure_eq_captures, fun s r f hwf hphase => ?_⟩
  · rw [assembleOp_coast, assembleOp_setThrottle, signedLiteral_zero]
    rfl
  · rw [assembleOp_center, assembleOp_setSteer, signedLiteral_zero]
    rfl
  · have hcaptures : execAll [.echoCapture r, .echoCapture f] s = .next ((s.capture r.toNat).capture f.toNat) := by
      have hwf' : (effect (.echoCapture r) s).cfg.WellFormed := (effect_cfg (.echoCapture r) s).symm ▸ hwf
      rw [execAll_cons_eq_next, execAll_cons_eq_next]
      exact ⟨hwf, hwf', rfl⟩
    rw [State.capture_capture hphase] at hcaptures
    exact ⟨_, hcaptures, rfl, rfl, rfl⟩

end Sys2Proof.Machine
end

section
/-! RNG's state as a relation between states (40_ranging.md R108): captures and operations of any kind keep it equal between
states of one ranging state, and so does every step. -/

namespace Sys2Proof.Safety

open Sys2Proof.Machine

theorem sameRanging.refl (s : State) : sameRanging s s := ⟨rfl, rfl, rfl, rfl⟩

theorem sameRanging.symm {s t : State} (h : sameRanging s t) : sameRanging t s := by
  obtain ⟨hphase, hrise, hfall, hdistance⟩ := h
  exact ⟨hphase.symm, hrise.symm, hfall.symm, hdistance.symm⟩

theorem sameRanging.trans {s t u : State} (h : sameRanging s t) (h' : sameRanging t u) : sameRanging s u := by
  obtain ⟨hphase, hrise, hfall, hdistance⟩ := h
  obtain ⟨hphase', hrise', hfall', hdistance'⟩ := h'
  exact ⟨hphase'.trans hphase, hrise'.trans hrise, hfall'.trans hfall, hdistance'.trans hdistance⟩

end Sys2Proof.Safety

namespace Sys2Proof.Machine

open Sys2Proof.Safety

/-! ### Operations -/

/-- Reset forgets the ranging state (70_reset_and_hazards.md R230). -/
theorem State.blockReset_sameRanging (s s' : State) : sameRanging s.blockReset s'.blockReset := ⟨rfl, rfl, rfl, rfl⟩

section related
variable {s s' : State} (h : sameRanging s s')
include h

/-- Other events at the ports change nothing of the ranging state. -/
theorem State.withQueue_sameRanging (q : List PortEvent) : sameRanging (s.withQueue q) (s'.withQueue q) := h

/-- A capture looks at the ranging state and the configuration alone (40_ranging.md R102). -/
theorem State.capture_sameRanging (hcfg : s'.cfg = s.cfg) (tick : Nat) :
    sameRanging (s.capture tick) (s'.capture tick) := by
  obtain ⟨hphase, hrise, hfall, hdistance⟩ := h
  cases hs : s.phase with
  | awaitingRise =>
    rw [State.capture_awaitingRise s tick hs, State.capture_awaitingRise s' tick (hphase.trans hs)]
    exact ⟨rfl, rfl, hfall, hdistance⟩
  | awaitingFall =>
    rw [State.capture_awaitingFall s tick hs, State.capture_awaitingFall s' tick (hphase.trans hs), hcfg, hrise]
    exact ⟨rfl, rfl, rfl, rfl⟩

/-- A capture answers alike from alike; any other operation leaves both ranging states as they are. -/
theorem effect_sameRanging_of_sameRanging (hcfg : s'.cfg = s.cfg) (i : Instr) :
    sameRanging (effect i s) (effect i s') := by
  cases hi : isCapture i with
  | true =>
    cases i with
    | echoCapture tick => exact State.capture_sameRanging h hcfg tick.toNat
    | distRead | actInit | setSteer | setThrottle | drive => cases hi
  | false => exact (sameRanging.trans (effect_sameRanging hi s).symm h).trans (effect_sameRanging hi s')

end related

/-! ### Steps -/

section step
variable {s t : State} {by_ : Issuer} {w : OpWord} {rest : List PortEvent}

/-- A step with a word first at the ports has the effect of the operation it decodes to. -/
theorem effect_of_step_op (hq : s.opQueue = .op by_ w :: rest) (hstep : step s = .next t) :
    ∃ i, decode s.cfg w = .ok i ∧ t = effect i (s.withQueue rest) := by
  obtain ⟨hq', -⟩ | ⟨_, hq', -⟩ | ⟨_, _, _, i, hq', -, hdec, rfl⟩ | ⟨_, _, _, _, _, hq', -⟩ := performEvent_eq_next hstep
  case inr.inr.inl => cases hq.symm.trans hq'; exact ⟨i, hdec, rfl⟩
  all_goals cases hq.symm.trans hq'

/-- Wherever `rst` cuts an operation, the step ends in a reset block (70_reset_and_hazards.md R231). -/
theorem blockReset_of_step_opCutByRst {last : Nat} (hq : s.opQueue = .opCutByRst by_ w last :: rest)
    (hstep : step s = .next t) : ∃ u : State, t = u.blockReset := by
  obtain ⟨hq', -⟩ | ⟨_, hq', -⟩ | ⟨_, _, _, _, hq', -⟩ | ⟨_, _, _, _, _, -, -, -, ⟨-, ht⟩ | ⟨-, ht⟩⟩ :=
    performEvent_eq_next hstep
  case inr.inr.inr.inl | inr.inr.inr.inr => exact ⟨_, ht⟩
  all_goals cases hq.symm.trans hq'

/-- The oldest event decides: a wait, one operation performed on both sides, or a reset of both. -/
theorem step_sameRanging {s' t' : State} (h : sameRanging s s') (hcfg : s'.cfg = s.cfg)
    (hqueue : s'.opQueue = s.opQueue) (hstep : step s = .next t) (hstep' : step s' = .next t') : sameRanging t t' := by
  rcases hq : s.opQueue with _ | ⟨_ | _ | _, rest⟩
  case nil =>
    cases (step_idle hq).symm.trans hstep
    cases (step_idle (hqueue.trans hq)).symm.trans hstep'
    exact h
  case cons.op =>
    obtain ⟨i, hdec, rfl⟩ := effect_of_step_op hq hstep
    obtain ⟨i', hdec', rfl⟩ := effect_of_step_op (hqueue.trans hq) hstep'
    rw [hcfg, hdec] at hdec'
    cases hdec'
    exact effect_sameRanging_of_sameRanging (State.withQueue_sameRanging h rest) hcfg i
  case cons.opCutByRst =>
    obtain ⟨u, rfl⟩ := blockReset_of_step_opCutByRst hq hstep
    obtain ⟨u', rfl⟩ := blockReset_of_step_opCutByRst (hqueue.trans hq) hstep'
    exact State.blockReset_sameRanging u u'
  case cons.rst =>
    cases (step_rst hq).symm.trans hstep
    cases (step_rst (hqueue.trans hq)).symm.trans hstep'
    exact State.blockReset_sameRanging _ _

end step

/-- Settles O52: only a capture's effect touches RNG's state, and every step treats related states alike. -/
theorem stepKeepsRangingBetweenCaptures : Obligations.StepKeepsRangingBetweenCaptures := by
  refine ⟨fun s t by_ w rest i hq hdec hi hstep => ?_, fun s s' t t' => step_sameRanging⟩
  obtain ⟨i', hdec', rfl⟩ := effect_of_step_op hq hstep
  cases hdec.symm.trans hdec'
  exact effect_sameRanging hi (s.withQueue rest)

/-! ### Lists of operations -/

/-- From states of one ranging state, dropping the operations that are no captures loses nothing of the ranging state. -/
theorem execAll_captures_of_sameRanging {ops : List Instr} {s s' t : State} (h : sameRanging s' s)
    (hcfg : s.cfg = s'.cfg) (hall : execAll ops s = .next t) :
    ∃ u, execAll (ops.filter isCapture) s' = .next u ∧ sameRanging u t := by
  induction ops generalizing s s' with
  | nil => exact ⟨s', rfl, Host.Outcome.next.inj hall ▸ h⟩
  | cons i ops ih =>
    obtain ⟨hwf, hrest⟩ := execAll_cons_eq_next.1 hall
    have hcfg' : (effect i s).cfg = s'.cfg := (effect_cfg i s).trans hcfg
    by_cases hi : isCapture i = true
    · obtain ⟨u, hu, hut⟩ :=
        ih (effect_sameRanging_of_sameRanging h hcfg i) (hcfg'.trans (effect_cfg i s').symm) hrest
      rw [List.filter_cons_of_pos hi]
      exact ⟨u, execAll_cons_eq_next.2 ⟨hcfg ▸ hwf, hu⟩, hut⟩
    · rw [List.filter_cons_of_neg hi]
      exact ih (sameRanging.trans h (effect_sameRanging (Bool.eq_false_of_not_eq_true hi) s)) hcfg' hrest

/-- Settles O23: two runs from one state, of which one skips what is no capture. -/
theorem rangingDependsOnCapturesAlone : Obligations.RangingDependsOnCapturesAlone :=
  fun _ s _ => execAll_captures_of_sameRanging (.refl s) rfl

theorem otherPhase_otherPhase (p : Phase) : otherPhase (otherPhase p) = p := by cases p <;> rfl

/-- Captures pair by position only (40_ranging.md R106). -/
theorem State.capture_phase (s : State) (tick : Nat) : (s.capture tick).phase = otherPhase s.phase := by
  cases hphase : s.phase with
  | awaitingRise => rw [State.capture_awaitingRise s tick hphase]; rfl
  | awaitingFall => rw [State.capture_awaitingFall s tick hphase]; rfl

theorem effect_phase (i : Instr) (s : State) :
    (effect i s).phase = if isCapture i then otherPhase s.phase else s.phase := by
  cases i with
  | echoCapture tick => exact s.capture_phase tick.toNat
  | distRead | actInit | setSteer | setThrottle | drive => exact (effect_sameRanging rfl s).1

/-- Settles O24, by induction on the operations: a capture changes both the parity and the phase, any other operation
neither. -/
theorem phaseIsTheParityOfTheCaptures : Obligations.PhaseIsTheParityOfTheCaptures := by
  intro ops
  induction ops with
  | nil => exact fun s t hall => Host.Outcome.next.inj hall ▸ rfl
  | cons i ops ih =>
    intro s t hall
    obtain ⟨-, hrest⟩ := execAll_cons_eq_next.1 hall
    rw [ih _ t hrest, effect_phase]
    by_cases hi : isCapture i = true
    · have hparity : ((ops.filter isCapture).length + 1) % 2 = 0 ↔ ¬ (ops.filter isCapture).length % 2 = 0 := by omega
      rw [List.filter_cons_of_pos hi, List.length_cons, if_congr hparity rfl rfl, ite_not, if_pos hi,
        otherPhase_otherPhase]
    · rw [List.filter_cons_of_neg hi, if_neg hi]

end Sys2Proof.Machine
end

section
/-! Elapsed ticks and the conversion to centimetres (40_ranging.md R101, R103, R104, R110). -/

namespace Sys2Proof.Machine

/-! ### Elapsed -/

section elapsed
variable {c : Config} {r f : Nat}

theorem elapsed_of_lt (h : r < f) : elapsed c r f = f - r := if_pos h

theorem elapsed_of_le (h : f ≤ r) : elapsed c r f = c.maxTick + 1 - r + f := if_neg (Nat.not_lt.2 h)

/-- One more than a residue: what makes a full wrap count as MAX_TICK + 1 and not as 0 (40_ranging.md R101). -/
theorem elapsed_eq_mod_add_one (hr : r ≤ c.maxTick) (hf : f ≤ c.maxTick) :
    elapsed c r f = (f + (c.maxTick - r)) % (c.maxTick + 1) + 1 := by
  rcases lt_or_ge r f with h | h
  · have hwrap : f + (c.maxTick - r) = (f - r - 1) + (c.maxTick + 1) := by omega
    rw [elapsed_of_lt h, hwrap, Nat.add_mod_right, Nat.mod_eq_of_lt (by omega)]
    omega
  · rw [elapsed_of_le h, Nat.mod_eq_of_lt (by omega)]
    omega

theorem elapsed_pos (hr : r ≤ c.maxTick) (hf : f ≤ c.maxTick) : 1 ≤ elapsed c r f := by
  rw [elapsed_eq_mod_add_one hr hf]
  exact Nat.le_add_left ..

/-- The residue of R101, by the three ways the ticks can stand to each other. -/
theorem elapsed_eq_residue (hr : r ≤ c.maxTick) (hf : f ≤ c.maxTick) :
    (elapsed c r f : Int) = if ((f : Int) - r) % (c.maxTick + 1) = 0 then (c.maxTick : Int) + 1
      else ((f : Int) - r) % (c.maxTick + 1) := by
  rcases lt_trichotomy r f with h | rfl | h
  · rw [elapsed_of_lt h, Int.emod_eq_of_lt (by omega) (by omega), if_neg (by omega)]
    omega
  · rw [elapsed_of_le le_rfl, sub_self, Int.zero_emod, if_pos rfl]
    omega
  · rw [elapsed_of_le h.le, ← Int.add_emod_right, Int.emod_eq_of_lt (by omega) (by omega), if_neg (by omega)]
    omega

end elapsed

/-- Settles O16: the corner cases are the branches of the formula. -/
theorem elapsedIsTheResidueWithFullWrapForZero : Obligations.ElapsedIsTheResidueWithFullWrapForZero := by
  intro c r f hr hf
  have hle := elapsed_le hr hf
  refine ⟨rfl, elapsed_pos hr hf, hle, fun hmax => ?_, elapsed_eq_residue hr hf, ?_, fun h => ?_, ?_, elapsed_of_lt⟩
  · exact (hmax ▸ hle).trans_lt (Nat.pow_lt_pow_succ one_lt_two)
  · rw [elapsed_of_le le_rfl]
    omega
  · rw [elapsed_of_le (Nat.sub_le r 1)]
    omega
  · rw [elapsed_of_le (Nat.zero_le _)]
    omega

/-- Settles O17: the counter's own wrap and the one of Elapsed are the same residue. -/
theorem pulseLengthIsMeasuredUpToOneWrap : Obligations.PulseLengthIsMeasuredUpToOneWrap := by
  intro c r l hr hl
  have hfall : (r + l) % (c.maxTick + 1) ≤ c.maxTick := Nat.le_of_lt_succ (Nat.mod_lt _ (Nat.succ_pos _))
  have hwrap : r + l + (c.maxTick - r) = (l - 1) + (c.maxTick + 1) := by omega
  have hlength : elapsed c r ((r + l) % (c.maxTick + 1)) = (l - 1) % (c.maxTick + 1) + 1 := by
    rw [elapsed_eq_mod_add_one hr hfall, Nat.mod_add_mod, hwrap, Nat.add_mod_right]
  refine ⟨hlength, fun hone => ?_⟩
  rw [hlength, Nat.mod_eq_of_lt (by omega)]
  omega

/-! ### The conversion -/

theorem ticksToCm_of_lt {c : Config} {e : Nat} (h : e / c.usPerCm < 2 ^ c.distW) : ticksToCm c e = e / c.usPerCm := if_pos h

/-- With the defaults no measurement is too long for DIST_W (40_ranging.md R103). -/
theorem ticksToCm_withChannels (a b p n : Nat) {e : Nat} (he : e ≤ 65536) :
    ticksToCm (Config.withChannels a b p n) e = e / 58 :=
  ticksToCm_of_lt (show e / 58 < 2 ^ 32 by omega)

/-- Settles O18, from the quotients that fit. -/
theorem conversionTruncates : Obligations.ConversionTruncates := by
  refine ⟨fun _ _ => ticksToCm_of_lt, fun a b p n e he => ?_, fun a b p n => ?_⟩
  · have hquotient := ticksToCm_withChannels a b p n he
    exact ⟨hquotient, by omega, ticksToCm_lt ..⟩
  · exact ⟨ticksToCm_withChannels a b p n (by decide), ticksToCm_withChannels a b p n (by decide),
      ticksToCm_withChannels a b p n (by decide)⟩

/-- Settles O19: every class is a case of Elapsed's formula or a range of its values, divided by 58. -/
theorem distanceOutcomeClasses : Obligations.DistanceOutcomeClasses := by
  intro a b p n r f hr hf c
  have hle : elapsed c r f ≤ 65536 := elapsed_le (c := c) hr hf
  have hpos : 1 ≤ elapsed c r f := elapsed_pos (c := c) hr hf
  have hquotient : ticksToCm c (elapsed c r f) = elapsed c r f / 58 := ticksToCm_withChannels a b p n hle
  have hnoWrap : r < f → elapsed c r f = f - r := elapsed_of_lt
  have hwrap : f ≤ r → elapsed c r f = 65536 - r + f := elapsed_of_le
  rw [hquotient]
  refine ⟨fun h => ?_, fun h => ?_, fun h => ?_, fun h => ?_, fun h => ?_⟩
  · rw [hnoWrap h]
    exact ⟨rfl, rfl⟩
  · rw [hwrap h.le]
    exact ⟨rfl, rfl⟩
  all_goals omega

end Sys2Proof.Machine
end

section
/-! The two ranging operations (40_ranging.md R102, R105): their next states, their words and the rules' examples. -/

namespace Sys2Proof.Machine

open Sys2Proof.Safety

theorem exec_of_wellFormed {s : State} (h : s.cfg.WellFormed) (i : Instr) : exec i s = .next (effect i s) :=
  exec_eq_next.2 ⟨h, rfl⟩

/-- Under a well-formed configuration a list of operations runs through, effect by effect (60_exceptions.md R202). -/
theorem execAll_of_wellFormed {s : State} (h : s.cfg.WellFormed) (ops : List Instr) :
    execAll ops s = .next (ops.foldl (fun u i => effect i u) s) := by
  induction ops generalizing s with
  | nil => rfl
  | cons i ops ih =>
    have hcfg : (effect i s).cfg.WellFormed := (effect_cfg i s).symm ▸ h
    exact execAll_cons_eq_next.2 ⟨h, ih hcfg⟩

theorem State.reset_wellFormed : State.reset.cfg.WellFormed := by
  obtain ⟨-, -, -, -, hwf⟩ := resetMeetsTheInvariants
  exact hwf

theorem State.edgeSel_eq_rising {s : State} : s.edgeSel = .rising ↔ s.phase = .awaitingRise := by
  unfold State.edgeSel
  cases s.phase <;> decide

theorem State.edgeSel_eq_falling {s : State} : s.edgeSel = .falling ↔ s.phase = .awaitingFall := by
  unfold State.edgeSel
  cases s.phase <;> decide

/-- The second capture of a pulse, where the longest measurement fits DIST_W. -/
theorem State.capture_awaitingFall_of_fits {s : State} {tick : Nat} (hphase : s.phase = .awaitingFall)
    (hrise : s.tRise ≤ s.cfg.maxTick) (htick : tick ≤ s.cfg.maxTick)
    (hfits : (s.cfg.maxTick + 1) / s.cfg.usPerCm < 2 ^ s.cfg.distW) :
    s.capture tick = { s with
      tFall := tick
      distanceCm := elapsed s.cfg s.tRise tick / s.cfg.usPerCm
      phase := .awaitingRise } := by
  have hquotient : elapsed s.cfg s.tRise tick / s.cfg.usPerCm < 2 ^ s.cfg.distW :=
    (Nat.div_le_div_right (elapsed_le hrise htick)).trans_lt hfits
  rw [State.capture_awaitingFall s tick hphase, ticksToCm_of_lt hquotient]

/-- Settles O20: one capture from each phase, the edge after it, its word, and two captures from reset. -/
theorem echoCaptureRecordsAndMeasures : Obligations.EchoCaptureRecordsAndMeasures := by
  refine ⟨fun s tick hwf hphase => ?_, fun s tick hwf hphase hrise htick hfits => ?_, fun s t tick hexec => ?_,
    fun c tick => decode_of_encode_eq rfl, ?_⟩
  · exact (exec_of_wellFormed hwf _).trans (congrArg _ (State.capture_awaitingRise s tick.toNat hphase))
  · exact (exec_of_wellFormed hwf _).trans
      (congrArg _ (State.capture_awaitingFall_of_fits hphase hrise htick hfits))
  · obtain ⟨-, rfl⟩ := exec_eq_next.1 hexec
    have hphase : (effect (.echoCapture tick) s).phase = otherPhase s.phase := effect_phase (.echoCapture tick) s
    rw [State.edgeSel_eq_rising, State.edgeSel_eq_falling, State.edgeSel_eq_falling, State.edgeSel_eq_rising, hphase]
    exact ⟨congrArg otherPhase, congrArg otherPhase⟩
  · have hmeasured : ((State.reset.capture 60000).capture 100).distanceCm = 97 := by
      have helapsed : elapsed State.reset.cfg 60000 100 = 5636 := elapsed_of_le (by decide)
      rw [State.capture_capture rfl, helapsed]
      exact ticksToCm_withChannels 0 1 2 3 (show 5636 ≤ 65536 by decide)
    exact ⟨_, execAll_of_wellFormed State.reset_wellFormed _, hmeasured⟩

/-- Settles O21: a read returns what is published, through a measurement and into the flight of the next pulse. -/
theorem distReadReturnsThePublishedDistance : Obligations.DistReadReturnsThePublishedDistance :=
  ⟨fun _ hwf => exec_of_wellFormed hwf .distRead, fun _ => decode_of_encode_eq (i := .distRead) rfl rfl,
    _, execAll_of_wellFormed State.reset_wellFormed _, rfl⟩

end Sys2Proof.Machine
end

section
/-! The writes of ACT's operations (41_actuator.md R123, R124, R126, R128): the registers a channel update names, the lengths
of the lists, and what an operation that only writes leaves as it was. -/

namespace Sys2Proof.Machine

/-! ### The clauses of R8 that the writes rest on -/

section wellFormed
variable {c : Config} (hwf : c.WellFormed)
include hwf

theorem cmdLimit_pos_of_wellFormed : 1 ≤ c.cmdLimit := by
  obtain ⟨-, -, ⟨hlimit, -⟩, -⟩ := hwf
  exact hlimit

theorem prescaleVal_nonneg_of_wellFormed : 0 ≤ prescaleVal c := by
  obtain ⟨-, -, -, ⟨-, hprescale, -⟩, -⟩ := hwf
  exact hprescale

theorem addressesFit_of_wellFormed : c.addressesFit := by
  obtain ⟨-, -, -, -, -, hfit, -⟩ := hwf
  exact hfit

theorem channel_lt_of_wellFormed {ch : Nat} (hch : ch ∈ [c.chSteer, c.chPwm, c.chDirPos, c.chDirNeg]) : ch < c.nCh := by
  obtain ⟨-, -, -, -, hchannels, -⟩ := hwf
  obtain ⟨-, hlt⟩ := c.channelsDistinct_iff.1 hchannels
  exact hlt ch hch

theorem dirChannel_lt_of_wellFormed {ch : Nat} (hch : ch ∈ [c.chDirPos, c.chDirNeg]) : ch < c.nCh :=
  channel_lt_of_wellFormed hwf (List.mem_cons_of_mem _ (List.mem_cons_of_mem _ hch))

theorem chDirPos_ne_chDirNeg_of_wellFormed : c.chDirPos ≠ c.chDirNeg := by
  obtain ⟨-, -, -, -, ⟨-, -, -, -, -, hne, -⟩, -⟩ := hwf
  exact hne

end wellFormed

/-! ### A channel update -/

/-- Only the second register of a channel update gets the high byte of the on count, which holds the full-on flag
(30_encoding.md R81). -/
theorem mem_writeChannel {c : Config} {ch : Nat} {on off : Count} {w : BusWrite} (hw : w ∈ writeChannel c ch on off) :
    ∃ k < 4, w.reg = regAddr (regOnL c ch + k) ∧ (k = 1 → w.val = hi8 on) := by
  simp only [writeChannel, List.mem_cons, List.not_mem_nil, or_false] at hw
  obtain rfl | rfl | rfl | rfl := hw
  exacts [⟨0, by decide, rfl, nofun⟩, ⟨1, by decide, rfl, fun _ => rfl⟩, ⟨2, by decide, rfl, nofun⟩,
    ⟨3, by decide, rfl, nofun⟩]

theorem regAddr_inj {m n : Nat} (hm : m < 256) (hn : n < 256) (h : regAddr m = regAddr n) : m = n := by
  have htoNat := congrArg BitVec.toNat h
  simpa [regAddr, Nat.mod_eq_of_lt hm, Nat.mod_eq_of_lt hn] using htoNat

/-- Where R8's addresses fit, no two of the channels' registers coincide. -/
theorem channelReg_inj {c : Config} (hfit : c.addressesFit) {ch ch' j k : Nat} (hch : ch < c.nCh) (hch' : ch' < c.nCh)
    (hj : j < 4) (hk : k < 4) (h : regAddr (regOnL c ch + j) = regAddr (regOnL c ch' + k)) : ch = ch' ∧ j = k := by
  obtain ⟨-, -, -, -, -, hchannels⟩ := hfit
  have hbound := hchannels ch hch
  have hbound' := hchannels ch' hch'
  have haddr := regAddr_inj (by omega) (by omega) h
  unfold regOnL at haddr
  omega

/-! ### The lists -/

theorem length_steerWrites (c : Config) (angle : Int) : (steerWrites c angle).length = 4 := rfl

theorem length_throttleWrites (c : Config) (speed : Int) : (throttleWrites c speed).length = 12 := by
  have hdirection (v : Int) : (directionWrites c v).length = 8 := by
    unfold directionWrites
    split_ifs <;> rfl
  rw [throttleWrites, List.length_append, hdirection]
  rfl

/-- DRIVE writes most (42_drive_failsafe.md R160). -/
theorem length_opWrites_le (i : Instr) (s : State) : (opWrites i s).length ≤ 16 := by
  cases i with
  | echoCapture | distRead => exact Nat.zero_le _
  | actInit => exact (by decide : 11 ≤ 16)
  | setSteer => exact (by decide : 4 ≤ 16)
  | setThrottle speed => exact (length_throttleWrites s.cfg _).trans_le (by decide)
  | drive throttle steer =>
    have hlength : (opWrites (.drive throttle steer) s).length = 12 + 4 :=
      List.length_append.trans (congrArg₂ _ (length_throttleWrites s.cfg _) (length_steerWrites s.cfg _))
    exact hlength.le

end Sys2Proof.Machine
end

section
/-! The direction channels' full-on flags under the writes of an operation (41_actuator.md R128; 70_reset_and_hazards.md R231,
R240): while writes are delivered, no operation, whole or cut, turns both direction channels fully on. -/

namespace Sys2Proof.Machine

open Sys2Proof.Safety

/-! ### Delivered writes -/

/-- What the controller's registers hold once all the writes are delivered, `f` being what they held before. -/
def imageAfter (f : Byte → Byte) (ws : List BusWrite) : Byte → Byte :=
  ws.foldl (fun g w => Function.update g w.reg w.val) f

theorem imageAfter_cons (f : Byte → Byte) (w : BusWrite) (ws : List BusWrite) :
    imageAfter f (w :: ws) = imageAfter (Function.update f w.reg w.val) ws := rfl

theorem imageAfter_append (f : Byte → Byte) (ws vs : List BusWrite) :
    imageAfter f (ws ++ vs) = imageAfter (imageAfter f ws) vs :=
  List.foldl_append

theorem State.deviceByte_busWrite_ok {s : State} (hok : s.nextOutcome = .ok) (w : BusWrite) :
    (s.busWrite w).deviceByte = Function.update s.deviceByte w.reg w.val := by
  funext r
  unfold State.deviceByte
  rw [State.busWrite_controller, hok]
  by_cases hr : r = w.reg
  · rw [hr, Memory.read_deliver_ok, Function.update_self]
    rfl
  · rw [Memory.read_deliver_other _ w _ r hr, Function.update_of_ne hr]

/-- Where the coming outcomes are OK, the registers hold what the writes say. -/
theorem State.deviceByte_emit_ok {s : State} {n : Nat} {later : List BusOutcome}
    (hok : s.busOutcomes = List.replicate n .ok ++ later) {ws : List BusWrite} (hlen : ws.length ≤ n) :
    (s.emit ws).deviceByte = imageAfter s.deviceByte ws := by
  induction ws generalizing s n with
  | nil => rfl
  | cons w ws ih =>
    cases n with
    | zero => cases hlen
    | succ n =>
      have hnext : s.nextOutcome = .ok := by rw [State.nextOutcome, hok]; rfl
      have htail : (s.busWrite w).busOutcomes = List.replicate n .ok ++ later := by
        rw [State.busWrite_busOutcomes, hok]
        rfl
      rw [State.emit_cons, ih htail (Nat.le_of_succ_le_succ hlen), State.deviceByte_busWrite_ok hnext, imageAfter_cons]

/-! ### The flags in an image of the registers -/

/-- The full-on flag of a channel, where the controller's registers hold `f` (30_encoding.md R81). -/
def flagIn (c : Config) (f : Byte → Byte) (ch : Nat) : Bool := (f (regAddr (regOnL c ch + 1))).getLsbD 4

/-- `bridgeSafe` as a property of what the registers hold. -/
def BridgeSafeIn (c : Config) (f : Byte → Byte) : Prop := ∃ ch ∈ [c.chDirPos, c.chDirNeg], flagIn c f ch = false

theorem bridgeSafe_iff (s : State) : bridgeSafe s ↔ BridgeSafeIn s.cfg s.deviceByte := by
  have hflag (ch : Nat) : fullOnFlag s ch = flagIn s.cfg s.deviceByte ch := rfl
  simp only [bridgeSafe, BridgeSafeIn, hflag, not_and_or, Bool.not_eq_true, List.exists_mem_cons_iff,
    List.not_mem_nil, false_and, exists_false, or_false]

theorem bridgeSafe_of_controller_eq {s t : State} (hcfg : t.cfg = s.cfg) (hcontroller : t.controller = s.controller)
    (h : bridgeSafe s) : bridgeSafe t := by
  have hbyte : t.deviceByte = s.deviceByte := by
    funext r
    rw [State.deviceByte, State.deviceByte, hcontroller]
  rw [bridgeSafe_iff, hcfg, hbyte]
  exact (bridgeSafe_iff s).1 h

/-- No write of the list sets the channel's full-on flag. -/
def NeverRaises (c : Config) (ch : Nat) (ws : List BusWrite) : Prop :=
  ∀ w ∈ ws, w.reg = regAddr (regOnL c ch + 1) → w.val.getLsbD 4 = false

/-- Delivered writes of the list, all of them or those before a cut, keep the bridge safe. -/
def KeepsBridgeSafe (c : Config) (ws : List BusWrite) : Prop :=
  ∀ f k, BridgeSafeIn c f → BridgeSafeIn c (imageAfter f (ws.take k))

section lists
variable {c : Config} {ch : Nat} {ws vs : List BusWrite}

theorem NeverRaises.take (h : NeverRaises c ch ws) (k : Nat) : NeverRaises c ch (ws.take k) :=
  fun w hw => h w (List.mem_of_mem_take hw)

theorem NeverRaises.flagIn_imageAfter (h : NeverRaises c ch ws) {f : Byte → Byte} (hf : flagIn c f ch = false) :
    flagIn c (imageAfter f ws) ch = false := by
  induction ws generalizing f with
  | nil => exact hf
  | cons w ws ih =>
    obtain ⟨hw, hws⟩ := List.forall_mem_cons.1 h
    rw [imageAfter_cons]
    refine ih hws ?_
    unfold flagIn
    by_cases hreg : regAddr (regOnL c ch + 1) = w.reg
    · rw [hreg, Function.update_self]
      exact hw hreg.symm
    · rw [Function.update_of_ne hreg]
      exact hf

theorem keepsBridgeSafe_of_neverRaises (h : ∀ ch ∈ [c.chDirPos, c.chDirNeg], NeverRaises c ch ws) :
    KeepsBridgeSafe c ws := by
  rintro f k ⟨ch, hch, hclear⟩
  exact ⟨ch, hch, ((h ch hch).take k).flagIn_imageAfter hclear⟩

theorem KeepsBridgeSafe.append (hws : KeepsBridgeSafe c ws) (hvs : KeepsBridgeSafe c vs) :
    KeepsBridgeSafe c (ws ++ vs) := by
  intro f k hf
  rw [List.take_append, imageAfter_append]
  exact hvs _ _ (hws f k hf)

/-- The interlock: once a first list has turned one direction channel off, a second one that leaves that channel alone may turn
the other on. -/
theorem KeepsBridgeSafe.append_of_clears (hws : KeepsBridgeSafe c ws) (hch : ch ∈ [c.chDirPos, c.chDirNeg])
    (hclears : ∀ f, flagIn c (imageAfter f ws) ch = false) (hvs : NeverRaises c ch vs) :
    KeepsBridgeSafe c (ws ++ vs) := by
  intro f k hf
  rcases le_total k ws.length with hk | hk
  · rw [List.take_append_of_le_length hk]
    exact hws f k hf
  · rw [List.take_append, List.take_of_length_le hk, imageAfter_append]
    exact ⟨ch, hch, (hvs.take _).flagIn_imageAfter (hclears f)⟩

end lists

/-! ### A channel update and the flags -/

section channel
variable {c : Config} (hfit : c.addressesFit) {ch : Nat} (hch : ch < c.nCh) {on off : Count}
include hfit hch

/-- A channel update sets its own channel's flag at most, and that only by its on count. -/
theorem neverRaises_writeChannel {ch' : Nat} (hch' : ch' < c.nCh) (h : ch' = ch → (hi8 on).getLsbD 4 = false) :
    NeverRaises c ch' (writeChannel c ch on off) := by
  intro w hw hreg
  obtain ⟨k, hk, hwreg, hval⟩ := mem_writeChannel hw
  obtain ⟨hsame, hone⟩ := channelReg_inj hfit hch' hch (by decide) hk (hreg.symm.trans hwreg)
  rw [hval hone.symm]
  exact h hsame

/-- Off-low and off-high, which come after the flag's byte, do not touch it. -/
theorem flagIn_imageAfter_writeChannel (f : Byte → Byte) :
    flagIn c (imageAfter f (writeChannel c ch on off)) ch = (hi8 on).getLsbD 4 := by
  have hne (k : Nat) (hk : k < 4) (hk1 : 1 ≠ k) : regAddr (regOnL c ch + 1) ≠ regAddr (regOnL c ch + k) :=
    fun h => hk1 (channelReg_inj hfit hch hch (by decide) hk h).2
  simp only [flagIn, imageAfter, writeChannel, regWrite, List.foldl_cons, List.foldl_nil]
  rw [Function.update_of_ne (hne 3 (by decide) (by decide)), Function.update_of_ne (hne 2 (by decide) (by decide)),
    Function.update_self]

end channel

/-! ### The operations -/

section operations
variable {c : Config} (hwf : c.WellFormed)
include hwf

/-- An update of any channel whose on count leaves the flag's bit clear raises no flag. -/
theorem keepsBridgeSafe_writeChannel {ch : Nat} (hch : ch < c.nCh) {on off : Count} (hon : (hi8 on).getLsbD 4 = false) :
    KeepsBridgeSafe c (writeChannel c ch on off) := by
  have hfit := addressesFit_of_wellFormed hwf
  exact keepsBridgeSafe_of_neverRaises fun _ hdir =>
    neverRaises_writeChannel hfit hch (dirChannel_lt_of_wellFormed hwf hdir) fun _ => hon

theorem keepsBridgeSafe_steerWrites (angle : Int) : KeepsBridgeSafe c (steerWrites c angle) :=
  keepsBridgeSafe_writeChannel hwf (channel_lt_of_wellFormed hwf (by simp)) rfl

variable (hoff : (hi8 (count16 c.fullOff.on)).getLsbD 4 = false)
include hoff

/-- One direction channel off, then the other to any counts. -/
theorem keepsBridgeSafe_off_append {ch ch' : Nat} (hch : ch ∈ [c.chDirPos, c.chDirNeg])
    (hch' : ch' ∈ [c.chDirPos, c.chDirNeg]) (hne : ch ≠ ch') (p : CountPair) :
    KeepsBridgeSafe c (writeChannelPair c ch c.fullOff ++ writeChannelPair c ch' p) := by
  have hfit := addressesFit_of_wellFormed hwf
  have hlt := dirChannel_lt_of_wellFormed hwf hch
  refine (keepsBridgeSafe_writeChannel hwf hlt hoff).append_of_clears hch (fun f => ?_) ?_
  · exact (flagIn_imageAfter_writeChannel hfit hlt f).trans hoff
  · exact neverRaises_writeChannel hfit (dirChannel_lt_of_wellFormed hwf hch') hlt fun h => absurd h hne

/-- SET_THROTTLE turns a direction channel off before it turns the other one on (41_actuator.md R128). -/
theorem keepsBridgeSafe_directionWrites (v : Int) : KeepsBridgeSafe c (directionWrites c v) := by
  have hne := chDirPos_ne_chDirNeg_of_wellFormed hwf
  have hposThenNeg := keepsBridgeSafe_off_append hwf hoff (by simp) (by simp) hne
  unfold directionWrites
  split_ifs
  · exact keepsBridgeSafe_off_append hwf hoff (by simp) (by simp) hne.symm _
  · exact hposThenNeg _
  · exact hposThenNeg _

theorem keepsBridgeSafe_throttleWrites (speed : Int) : KeepsBridgeSafe c (throttleWrites c speed) := by
  have hpwm : c.chPwm < c.nCh := channel_lt_of_wellFormed hwf (by simp)
  exact (keepsBridgeSafe_directionWrites hwf hoff _).append (keepsBridgeSafe_writeChannel hwf hpwm rfl)

end operations

section withChannels
variable {steer pwm dirPos dirNeg : Nat} (hbound : channelsBound steer pwm dirPos dirNeg)
include hbound

/-- With the defaults, ACT_INIT's registers are no channel's: the ALL registers count as registers of their own (log 16). -/
theorem keepsBridgeSafe_actInitWrites :
    KeepsBridgeSafe (Config.withChannels steer pwm dirPos dirNeg)
      (actInitWrites (Config.withChannels steer pwm dirPos dirNeg)) := by
  have hother : ∀ ch < 16, BitVec.ofNat 8 (6 + 4 * ch + 1) ∉
      [0x00, 0x01, 0xFE, 0xFA, 0xFB, 0xFC, 0xFD].map (BitVec.ofNat 8) := by decide
  refine keepsBridgeSafe_of_neverRaises fun ch hch w hw hreg => ?_
  have hlt : ch < 16 := dirChannel_lt_of_wellFormed ((Config.withChannels_wellFormed_iff ..).2 hbound) hch
  have hmem := actInitWrites_reg_mem w hw
  rw [hreg] at hmem
  exact absurd hmem (hother ch hlt)

theorem keepsBridgeSafe_opWrites {s : State} (hcfg : s.cfg = Config.withChannels steer pwm dirPos dirNeg) (i : Instr) :
    KeepsBridgeSafe s.cfg (opWrites i s) := by
  have hwf : s.cfg.WellFormed := hcfg ▸ (Config.withChannels_wellFormed_iff ..).2 hbound
  have hoff : (hi8 (count16 s.cfg.fullOff.on)).getLsbD 4 = false := by
    rw [hcfg]
    exact (by decide : (hi8 (count16 0)).getLsbD 4 = false)
  cases i with
  | echoCapture | distRead => exact fun f k hf => List.take_nil.symm ▸ hf
  | actInit =>
    unfold opWrites
    rw [hcfg]
    exact keepsBridgeSafe_actInitWrites hbound
  | setSteer => exact keepsBridgeSafe_steerWrites hwf _
  | setThrottle => exact keepsBridgeSafe_throttleWrites hwf hoff _
  | drive => exact (keepsBridgeSafe_throttleWrites hwf hoff _).append (keepsBridgeSafe_steerWrites hwf _)

/-- The operation's writes up to any cut, while the bus delivers them. -/
theorem bridgeSafe_emit_take_opWrites {s : State} (hcfg : s.cfg = Config.withChannels steer pwm dirPos dirNeg)
    {later : List BusOutcome} (hok : s.busOutcomes = List.replicate 16 .ok ++ later) (hsafe : bridgeSafe s) (i : Instr)
    (k : Nat) : bridgeSafe (s.emit ((opWrites i s).take k)) := by
  have hlen : ((opWrites i s).take k).length ≤ 16 := (List.length_take_le' ..).trans (length_opWrites_le i s)
  rw [bridgeSafe_iff, State.emit_cfg, State.deviceByte_emit_ok hok hlen]
  exact keepsBridgeSafe_opWrites hbound hcfg i _ k ((bridgeSafe_iff s).1 hsafe)

theorem bridgeSafe_effect {s : State} (hcfg : s.cfg = Config.withChannels steer pwm dirPos dirNeg)
    {later : List BusOutcome} (hok : s.busOutcomes = List.replicate 16 .ok ++ later) (hsafe : bridgeSafe s) (i : Instr) :
    bridgeSafe (effect i s) := by
  have hwhole := bridgeSafe_emit_take_opWrites hbound hcfg hok hsafe i (opWrites i s).length
  rw [List.take_length] at hwhole
  exact bridgeSafe_of_controller_eq ((effect_cfg i s).trans (State.emit_cfg ..).symm) (effect_controller i s) hwhole

end withChannels

/-- Settles O41: a step waits, resets the block, or emits an operation's writes, whole or cut; neither a reset nor the event
taken from the ports touches the controller's registers. -/
theorem bridgeStaysSafeWhileWritesSucceed : Obligations.BridgeStaysSafeWhileWritesSucceed := by
  intro s t a b p n later hbound hcfg hok hsafe hstep
  obtain ⟨-, rfl⟩ | ⟨_, -, rfl⟩ | ⟨_, _, rest, i, -, -, -, rfl⟩ |
      ⟨_, _, last, rest, i, -, -, -, ⟨-, rfl⟩ | ⟨-, rfl⟩⟩ := performEvent_eq_next hstep
  · exact hsafe
  · exact hsafe
  · exact bridgeSafe_effect (s := { s with opQueue := rest }) hbound hcfg hok hsafe i
  · exact bridgeSafe_emit_take_opWrites (s := { s with opQueue := rest }) hbound hcfg hok hsafe i (last + 1)
  · exact bridgeSafe_effect (s := { s with opQueue := rest }) hbound hcfg hok hsafe i

end Sys2Proof.Machine
end

section
/-! The actuator's pure functions (41_actuator.md R122, R125, R127): the steering value, the duty and the prescale. -/

namespace Sys2Proof.Machine

/-! ### The steering value -/

theorem clamp_eq_max_min {lo hi : Int} (h : lo ≤ hi) (v : Int) : clamp v lo hi = max lo (min hi v) := by
  unfold clamp
  split_ifs <;> omega

theorem clamp_mono {lo hi : Int} (h : lo ≤ hi) {v v' : Int} (hv : v ≤ v') : clamp v lo hi ≤ clamp v' lo hi := by
  unfold clamp
  split_ifs <;> omega

/-- The slope being positive, a larger angle gives no larger value (41_actuator.md R125). -/
theorem steerPwm_antitone {c : Config} (hnum : 0 ≤ c.steerScale.num) {angle angle' : Int} (h : angle ≤ angle') :
    steerPwm c angle' ≤ steerPwm c angle :=
  Int.sub_le_sub_left (scaledSteer_mono hnum (clamp_mono (by omega) h)) _

theorem steerPwm_eq_roundHaz (c : Config) (angle : Int) : steerPwm c angle =
    c.steerCenter - roundHaz (max (-(c.cmdLimit : Int)) (min c.cmdLimit angle) * c.steerScale.num) c.steerScale.den := by
  rw [← clamp_eq_max_min (by omega)]
  rfl

section withChannels
variable (a b p n : Nat) (angle : Int)

theorem steerPwm_withChannels :
    steerPwm (Config.withChannels a b p n) angle = 430 - roundHaz (max (-100) (min 100 angle) * 9) 10 :=
  steerPwm_eq_roundHaz ..

theorem steerPwm_withChannels_mem :
    340 ≤ steerPwm (Config.withChannels a b p n) angle ∧ steerPwm (Config.withChannels a b p n) angle ≤ 520 := by
  have hmem := steerPwm_mem (c := Config.withChannels a b p n) (by decide : (0 : Int) ≤ 9) angle
  rw [Config.withChannels_scaledSteer_limit] at hmem
  exact hmem

end withChannels

/-- round_haz of 9v/10 through the nearest-integer property: the last digit of `v` says how far off it is, and where that is a
half, the sign of `v` says to which side. -/
theorem roundHaz_mul_nine_div_ten (v : Int) :
    2 * |10 * roundHaz (v * 9) 10 - 9 * v| ≤ 10 ∧
    (v % 10 = 5 ↔ 2 * |10 * roundHaz (v * 9) 10 - 9 * v| = 10) ∧
    (v % 10 = 5 → 0 < v → 10 * roundHaz (v * 9) 10 = 9 * v + 5) ∧
    (v % 10 = 5 → v < 0 → 10 * roundHaz (v * 9) 10 = 9 * v - 5) := by
  obtain ⟨hnear, haway⟩ := roundHazIsNearestTiesAway (v * 9) 10 (by decide)
  generalize roundHaz (v * 9) 10 = r at hnear haway ⊢
  have hswap : v * 9 - r * (10 : Nat) = -(10 * r - 9 * v) := by omega
  rw [hswap, abs_neg] at hnear haway
  have hbounds : -5 ≤ 10 * r - 9 * v ∧ 10 * r - 9 * v ≤ 5 := abs_le.1 (by omega)
  have htie : v % 10 = 5 ↔ 2 * |10 * r - 9 * v| = 10 := by
    rcases abs_cases (10 * r - 9 * v) with ⟨habs, _⟩ | ⟨habs, _⟩ <;> rw [habs] <;> omega
  refine ⟨hnear, htie, fun hmod hpos => ?_, fun hmod hneg => ?_⟩
  · have hlt := haway (htie.1 hmod)
    rw [abs_of_nonneg (by omega), abs_of_nonneg (by omega)] at hlt
    omega
  · have hlt := haway (htie.1 hmod)
    rw [abs_of_nonpos (by omega), abs_of_nonpos (by omega)] at hlt
    omega

/-- Settles O28: the range and the order are those of every slope that is not negative, the ties those of nine tenths. -/
theorem steerPwmIsTheLiteralFormula : Obligations.SteerPwmIsTheLiteralFormula := by
  refine ⟨steerPwm_eq_roundHaz, ?_, ?_⟩
  · intro a b p n angle c v
    obtain ⟨hmin, hmax⟩ := steerPwm_withChannels_mem a b p n angle
    obtain ⟨hnear, htie, hpos, hneg⟩ := roundHaz_mul_nine_div_ten v
    have hround : 430 - steerPwm c angle = roundHaz (v * 9) 10 := by
      rw [steerPwm_withChannels, sub_sub_cancel]
    rw [hround]
    exact ⟨hmin, hmax, hnear, htie, hpos, hneg, fun _ => steerPwm_antitone (by decide : (0 : Int) ≤ 9)⟩
  · intro a b p n c
    have hvalue := steerPwm_withChannels a b p n
    exact ⟨(hvalue 5).trans (by decide), (hvalue (-5)).trans (by decide), (hvalue (-100)).trans (by decide),
      (hvalue 100).trans (by decide)⟩

/-! ### The duty -/

theorem natAbs_clamp (v : Int) (limit : Nat) : (clamp v (-limit) limit).natAbs = min v.natAbs limit := by
  unfold clamp
  split_ifs <;> omega

/-- R127's form with the magnitude clamped. -/
theorem throttleDuty_eq (c : Config) (speed : Int) :
    throttleDuty c speed = min speed.natAbs c.cmdLimit * c.dutyMax / c.cmdLimit := by
  rw [throttleDuty, natAbs_clamp]

theorem throttleDuty_le (c : Config) (speed : Int) : throttleDuty c speed ≤ c.dutyMax := by
  rw [throttleDuty_eq]
  exact Nat.div_le_of_le_mul (Nat.mul_le_mul_right _ (Nat.min_le_right ..))

theorem throttleDuty_neg (c : Config) (speed : Int) : throttleDuty c (-speed) = throttleDuty c speed := by
  rw [throttleDuty_eq, throttleDuty_eq, Int.natAbs_neg]

theorem throttleDuty_withChannels (a b p n : Nat) (speed : Int) :
    throttleDuty (Config.withChannels a b p n) speed = min speed.natAbs 100 * 4095 / 100 :=
  throttleDuty_eq ..

/-- Settles O30: every part reads the duty as a quotient of the clamped magnitude. -/
theorem throttleDutyTruncates : Obligations.ThrottleDutyTruncates := by
  refine ⟨fun c speed _ => ⟨throttleDuty_eq c speed, throttleDuty_le c speed⟩, ?_, ?_⟩
  · intro a b p n speed c
    have hmagnitude : (clamp speed (-100) 100).natAbs = min speed.natAbs 100 := natAbs_clamp speed 100
    exact ⟨by omega, throttleDuty_neg c speed⟩
  · intro a b p n c
    have hvalue := throttleDuty_withChannels a b p n
    exact ⟨(hvalue 50).trans rfl, (hvalue 1).trans rfl, (hvalue 99).trans rfl, (hvalue 100).trans rfl,
      (hvalue (-100)).trans rfl⟩

/-! ### The prescale -/

theorem prescaleVal_eq_roundHaz (c : Config) : prescaleVal c = roundHaz c.oscHz (c.pwmSteps * c.freqHz) - 1 := by
  rw [roundHaz_natCast, ← mul_assoc]
  rfl

/-- A tie would make 4096 a divisor of twice the oscillator frequency. -/
theorem no_prescale_tie (f k : Nat) : 2 * 25000000 ≠ (2 * k + 1) * (4096 * f) := by
  intro htie
  have hdvd : 4096 ∣ 2 * 25000000 := ⟨(2 * k + 1) * f, by rw [htie]; ring⟩
  exact absurd hdvd (by decide)

/-- The prescale fits a byte, with the defaults for the oscillator and the steps (41_actuator.md R122). -/
theorem prescale_fits_iff {c : Config} (hosc : c.oscHz = 25000000) (hsteps : c.pwmSteps = 4096) :
    1 ≤ c.freqHz ∧ 0 ≤ prescaleVal c ∧ prescaleVal c ≤ 255 ↔ 24 ≤ c.freqHz ∧ c.freqHz ≤ 12207 := by
  unfold prescaleVal
  rw [hosc, hsteps]
  rcases c.freqHz.eq_zero_or_pos with hzero | hpos
  · omega
  · have hlow := Nat.le_div_iff_mul_le (x := 1) (y := 2 * 25000000 + 4096 * c.freqHz)
      (show 0 < 2 * 4096 * c.freqHz by omega)
    have hhigh := Nat.div_lt_iff_lt_mul (x := 2 * 25000000 + 4096 * c.freqHz) (y := 257)
      (show 0 < 2 * 4096 * c.freqHz by omega)
    omega

/-- Of R8's clauses only the one on the prescale looks at FREQ_HZ. -/
theorem wellFormed_withFreq_iff {c : Config} (hwf : c.WellFormed) (f : Nat) :
    { c with freqHz := f }.WellFormed ↔
      1 ≤ f ∧ 0 ≤ prescaleVal { c with freqHz := f } ∧ prescaleVal { c with freqHz := f } ≤ 255 := by
  obtain ⟨htick, hdivisor, hcommand, -, hchannels, haddresses, hsteering⟩ := hwf
  constructor
  · rintro ⟨-, -, -, hprescale, -⟩
    exact hprescale
  · exact fun hprescale => ⟨htick, hdivisor, hcommand, hprescale, hchannels, haddresses, hsteering⟩

/-- Settles O31, from the closed form of R122. -/
theorem prescaleIsExact : Obligations.PrescaleIsExact := by
  refine ⟨fun c _ => ⟨prescaleVal_eq_roundHaz c, rfl⟩, Config.withChannels_prescaleVal, no_prescale_tie,
    fun a b p n f hbound => ?_⟩
  rw [wellFormed_withFreq_iff ((Config.withChannels_wellFormed_iff a b p n).2 hbound)]
  exact prescale_fits_iff (c := { Config.withChannels a b p n with freqHz := f }) rfl rfl

end Sys2Proof.Machine
end

section
/-! ACT's operations (41_actuator.md R124, R126, R128, R131): the writes each makes, and that it does nothing else. -/

namespace Sys2Proof.Machine

open Sys2Proof.Safety

/-! ### An operation that writes -/

theorem effect_read_other {i : Instr} {s : State} {r : Byte} (h : ∀ w ∈ opWrites i s, w.reg ≠ r) :
    Memory.read (effect i s).controller r = Memory.read s.controller r := by
  rw [effect_controller]
  exact State.emit_read_other s _ r h

/-- Only DIST_READ has an effect on a port other than the bus (40_ranging.md R105). -/
theorem effect_samePorts {i : Instr} (hi : i ≠ .distRead) (s : State) : samePorts s (effect i s) := by
  refine ⟨effect_cfg i s, effect_opQueue i s, ?_, effect_refusedMark i s⟩
  cases i with
  | distRead => exact absurd rfl hi
  | echoCapture | actInit | setSteer | setThrottle | drive => simp [effect]

/-- Only ACT_INIT writes the mode cache (10_state.md R27). -/
theorem effect_modeCache {i : Instr} (hi : i ≠ .actInit) (s : State) : (effect i s).modeCache = s.modeCache := by
  cases i with
  | actInit => exact absurd rfl hi
  | echoCapture | distRead | setSteer | setThrottle | drive => simp [effect]

/-- An operation's writes go by the configuration and, for DRIVE, by the published distance; no other state enters them. -/
theorem opWrites_congr {s u : State} (hcfg : u.cfg = s.cfg) (hdistance : u.distanceCm = s.distanceCm) (i : Instr) :
    opWrites i u = opWrites i s := by
  cases i with
  | echoCapture | distRead => rfl
  | actInit | setSteer | setThrottle => simp only [opWrites, hcfg]
  | drive => simp only [opWrites, hcfg, hdistance]

theorem opWrites_effect_actInit (i : Instr) (s : State) : opWrites i (effect .actInit s) = opWrites i s := by
  obtain ⟨-, -, -, hdistance⟩ := effect_sameRanging (i := .actInit) rfl s
  exact opWrites_congr (effect_cfg ..) hdistance i

theorem exists_exec_trace {s : State} {i : Instr} {ws : List BusWrite} (hwf : s.cfg.WellFormed)
    (hws : opWrites i s = ws) : ∃ t, exec i s = .next t ∧ t.trace = s.trace ++ ws :=
  ⟨_, exec_of_wellFormed hwf i, hws ▸ effect_trace i s⟩

/-! ### ACT_INIT -/

theorem ofInt_prescaleVal {c : Config} (hwf : c.WellFormed) :
    BitVec.ofInt 8 (prescaleVal c) = BitVec.ofNat 8 (prescaleVal c).toNat := by
  conv_lhs => rw [← Int.toNat_of_nonneg (prescaleVal_nonneg_of_wellFormed hwf)]
  exact BitVec.ofInt_natCast ..

section withChannels
variable (a b p n : Nat)

theorem modeAwake_withChannels : modeAwake (Config.withChannels a b p n) = 0x01 :=
  (by decide : 0x01#8 &&& ~~~0x10#8 = 0x01#8)

theorem actInitWrites_withChannels : actInitWrites (Config.withChannels a b p n) =
    [⟨0xFA, 0x00⟩, ⟨0xFB, 0x00⟩, ⟨0xFC, 0x00⟩, ⟨0xFD, 0x00⟩, ⟨0x01, 0x04⟩, ⟨0x00, 0x01⟩, ⟨0x00, 0x01⟩, ⟨0x00, 0x11⟩,
      ⟨0xFE, 0x65⟩, ⟨0x00, 0x01⟩, ⟨0x00, 0x81⟩] := by
  rw [actInitWrites, modeAwake_withChannels, Config.withChannels_prescaleVal]
  simp [regWrite, regAddr, modeAfterInit, Config.withChannels]

end withChannels

/-- Settles O33: the writes are `actInitWrites`, and they do not depend on the mode cache or on anything else ACT_INIT
changes. -/
theorem actInitBringsUpTheController : Obligations.ActInitBringsUpTheController := by
  refine ⟨fun c => decode_of_encode_eq (i := .actInit) rfl rfl, ?_, ?_⟩
  · intro s hwf c old reg ws
    have hws : opWrites .actInit s = ws := by
      rw [opWrites, actInitWrites, ofInt_prescaleVal hwf]
      rfl
    have htrace : (effect .actInit s).trace = s.trace ++ ws := hws ▸ effect_trace .actInit s
    have hagain : opWrites .actInit (effect .actInit s) = ws := (opWrites_effect_actInit ..).trans hws
    have hwf' : (effect .actInit s).cfg.WellFormed := (effect_cfg .actInit s).symm ▸ hwf
    refine ⟨effect .actInit s, exec_of_wellFormed hwf _, htrace, rfl, effect_sameRanging rfl s,
      effect_samePorts (by simp) s, fun r hr => effect_read_other (hws.symm ▸ hr), ?_⟩
    rw [← htrace]
    exact exists_exec_trace hwf' hagain
  · intro s t a b p n hcfg hexec
    obtain ⟨-, rfl⟩ := exec_eq_next.1 hexec
    have hawake : modeAwake s.cfg = 0x01 := by
      rw [hcfg]
      exact modeAwake_withChannels a b p n
    refine ⟨hawake, ?_⟩
    rw [effect_trace, opWrites, hcfg, actInitWrites_withChannels]

/-! ### SET_STEER -/

/-- Settles O34: a channel update of CH_STEER, whose count is the literal formula's. -/
theorem setSteerWritesTheSteeringChannel : Obligations.SetSteerWritesTheSteeringChannel := by
  refine ⟨fun c angle => decode_of_encode_eq rfl, ?_, ?_, ?_⟩
  · intro s angle hwf c p reg
    refine ⟨_, exec_of_wellFormed hwf _, effect_trace (.setSteer angle) s,
      ⟨effect_sameRanging rfl s, effect_modeCache (by simp) s⟩, effect_samePorts (by simp) s, fun r h0 h1 h2 h3 => ?_⟩
    have hother : ∀ w ∈ opWrites (.setSteer angle) s, w.reg ≠ r := by
      intro w hw
      obtain ⟨k, hk, hreg, -⟩ := mem_writeChannel hw
      rw [hreg]
      interval_cases k
      exacts [h0.symm, h1.symm, h2.symm, h3.symm]
    exact effect_read_other hother
  · intro a b p n
    have hvalue := steerPwm_withChannels a b p n
    exact ⟨(hvalue _).trans (by decide), (hvalue _).trans (by decide), by rw [hvalue, hvalue]; rfl⟩
  · refine ⟨_, exec_of_wellFormed State.reset_wellFormed _, ?_⟩
    rw [effect_trace]
    rfl

/-! ### SET_THROTTLE -/

section throttle
variable {c : Config} {v : Int} {w : BusWrite}

theorem clamp_pos_iff {limit : Nat} (h : 1 ≤ limit) : 0 < clamp v (-limit) limit ↔ 0 < v := by
  unfold clamp
  split_ifs <;> omega

theorem clamp_neg_iff {limit : Nat} (h : 1 ≤ limit) : clamp v (-limit) limit < 0 ↔ v < 0 := by
  unfold clamp
  split_ifs <;> omega

theorem directionWrites_of_pos (h : 0 < v) :
    directionWrites c v = writeChannelPair c c.chDirNeg c.fullOff ++ writeChannelPair c c.chDirPos c.fullOn :=
  if_pos h

theorem directionWrites_of_neg (h : v < 0) :
    directionWrites c v = writeChannelPair c c.chDirPos c.fullOff ++ writeChannelPair c c.chDirNeg c.fullOn :=
  (if_neg h.not_gt).trans (if_pos h)

theorem directionWrites_zero (c : Config) :
    directionWrites c 0 = writeChannelPair c c.chDirPos c.fullOff ++ writeChannelPair c c.chDirNeg c.fullOff :=
  (if_neg (lt_irrefl 0)).trans (if_neg (lt_irrefl 0))

/-- The clamp keeps the sign, and the direction goes by the sign alone. -/
theorem directionWrites_clamp (h : 1 ≤ c.cmdLimit) :
    directionWrites c (clamp v (-c.cmdLimit) c.cmdLimit) = directionWrites c v := by
  simp only [directionWrites, clamp_pos_iff h, clamp_neg_iff h]

theorem throttleWrites_eq (h : 1 ≤ c.cmdLimit) :
    throttleWrites c v = directionWrites c v ++
      writeChannel c c.chPwm 0 (count16 (min v.natAbs c.cmdLimit * c.dutyMax / c.cmdLimit : Nat)) := by
  rw [throttleWrites, directionWrites_clamp h, throttleDuty_eq]

theorem mem_directionWrites (hw : w ∈ directionWrites c v) :
    ∃ ch ∈ [c.chDirPos, c.chDirNeg], ∃ q, w ∈ writeChannelPair c ch q := by
  unfold directionWrites at hw
  split_ifs at hw <;> rcases List.mem_append.1 hw with hw | hw <;> exact ⟨_, by simp, _, hw⟩

theorem mem_throttleWrites (hw : w ∈ throttleWrites c v) :
    ∃ ch ∈ [c.chDirPos, c.chDirNeg, c.chPwm], ∃ k < 4, w.reg = regAddr (regOnL c ch + k) := by
  obtain ⟨ch, hch, on, off, hw⟩ : ∃ ch ∈ [c.chDirPos, c.chDirNeg, c.chPwm], ∃ on off, w ∈ writeChannel c ch on off := by
    rcases List.mem_append.1 hw with hw | hw
    · obtain ⟨ch, hch, q, hw⟩ := mem_directionWrites hw
      exact ⟨ch, List.mem_append_left [c.chPwm] hch, _, _, hw⟩
    · exact ⟨c.chPwm, by simp, _, _, hw⟩
  obtain ⟨k, hk, hreg, -⟩ := mem_writeChannel hw
  exact ⟨ch, hch, k, hk, hreg⟩

/-- A channel update with the defaults, from the bytes of its counts. -/
theorem writeChannel_withChannels {a b p n ch : Nat} {on off : Count} {bytes : List Byte}
    (h : [lo8 on, hi8 on, lo8 off, hi8 off] = bytes) : writeChannel (Config.withChannels a b p n) ch on off =
      List.zipWith (fun k v => ⟨BitVec.ofNat 8 (6 + 4 * ch + k), v⟩) [0, 1, 2, 3] bytes := by
  subst h
  rfl

end throttle

/-- Settles O35: the writes are `throttleWrites`, whose direction and duty the clamp leaves to the commanded speed. -/
theorem setThrottleSelectsDirectionThenDuty : Obligations.SetThrottleSelectsDirectionThenDuty := by
  refine ⟨fun c speed => decode_of_encode_eq rfl, ?_⟩
  intro s speed hwf c v full duty ws
  have hlimit := cmdLimit_pos_of_wellFormed hwf
  have hws : opWrites (.setThrottle speed) s = ws := throttleWrites_eq hlimit
  have hlength : ws.length = 12 := hws ▸ length_throttleWrites c v
  have hcoast : v = 0 → duty = 0 := by
    intro hv
    simp [duty, hv]
  refine ⟨_, exec_of_wellFormed hwf _, hws ▸ effect_trace (.setThrottle speed) s, hlength, hcoast,
    ⟨effect_sameRanging rfl s, effect_modeCache (by simp) s⟩, effect_samePorts (by simp) s, fun r hr => ?_⟩
  have hother : ∀ w ∈ opWrites (.setThrottle speed) s, w.reg ≠ r := by
    intro w hw hreg
    obtain ⟨ch, hch, k, hk, hchannel⟩ := mem_throttleWrites hw
    exact hr ch hch k hk (hreg.symm.trans hchannel)
  exact effect_read_other hother

/-- Settles O36: the sign of each speed gives the direction, its magnitude the duty, and the defaults the bytes. -/
theorem setThrottleBytesWithTheDefaults : Obligations.SetThrottleBytesWithTheDefaults := by
  intro s a b p n hbound hcfg chan on off
  have hwf : s.cfg.WellFormed := hcfg ▸ (Config.withChannels_wellFormed_iff a b p n).2 hbound
  have hon (ch : Nat) : writeChannelPair (Config.withChannels a b p n) ch ⟨4096, 0⟩ = chan ch on :=
    writeChannel_withChannels (by decide)
  have hoff (ch : Nat) : writeChannelPair (Config.withChannels a b p n) ch ⟨0, 4096⟩ = chan ch off :=
    writeChannel_withChannels (by decide)
  have hforward {v : Int} (hv : 0 < v) : directionWrites (Config.withChannels a b p n) v = chan n off ++ chan p on :=
    (directionWrites_of_pos hv).trans (congrArg₂ _ (hoff n) (hon p))
  have hreverse {v : Int} (hv : v < 0) : directionWrites (Config.withChannels a b p n) v = chan p off ++ chan n on :=
    (directionWrites_of_neg hv).trans (congrArg₂ _ (hoff p) (hon n))
  have hcoast : directionWrites (Config.withChannels a b p n) 0 = chan p off ++ chan n off :=
    (directionWrites_zero _).trans (congrArg₂ _ (hoff p) (hoff n))
  have hbytes {speed : Operand} {ds : List BusWrite} {bytes : List Byte}
      (hdirection : directionWrites (Config.withChannels a b p n) (signedValue speed) = ds)
      (hduty : [lo8 0, hi8 0, lo8 (count16 (min (signedValue speed).natAbs 100 * 4095 / 100 : Nat)),
        hi8 (count16 (min (signedValue speed).natAbs 100 * 4095 / 100 : Nat))] = bytes) :
      ∃ t, exec (.setThrottle speed) s = .next t ∧ t.trace = s.trace ++ (ds ++ chan b bytes) := by
    refine exists_exec_trace hwf ?_
    rw [opWrites, hcfg, throttleWrites_eq (by decide : 1 ≤ 100), hdirection]
    exact congrArg (ds ++ ·) (writeChannel_withChannels hduty)
  exact ⟨hbytes (hforward (by decide)) (by decide), hbytes (hreverse (by decide)) (by decide),
    hbytes hcoast (by decide), hbytes (hreverse (by decide)) (by decide)⟩

/-! ### Before and after ACT_INIT -/

/-- Settles O37, for every operation: ACT_INIT changes nothing that an operation's writes go by. -/
theorem setOperationsIgnoreInitialisation : Obligations.SetOperationsIgnoreInitialisation := by
  intro s u t v i _ ht hu hv
  obtain ⟨-, rfl⟩ := exec_eq_next.1 ht
  obtain ⟨-, rfl⟩ := exec_eq_next.1 hu
  obtain ⟨-, rfl⟩ := exec_eq_next.1 hv
  exact ⟨opWrites i s, effect_trace i s, opWrites_effect_actInit i s ▸ effect_trace i (effect .actInit s)⟩

end Sys2Proof.Machine
end

section
/-! DRIVE and the failsafe (42_drive_failsafe.md R160, R161, R162): when the failsafe holds, the writes DRIVE then makes, and
what they leave in the controller's registers. -/

namespace Sys2Proof.Machine

/-! ### The failsafe -/

theorem failsafe_iff {c : Config} {dist : Nat} {throttle : Int} :
    failsafe c dist throttle = true ↔ 0 < dist ∧ dist < c.failsafeCm ∧ 0 < throttle := by
  simp [failsafe, and_assoc]

theorem failsafe_withChannels_iff {a b p n dist : Nat} {throttle : Int} :
    failsafe (Config.withChannels a b p n) dist throttle = true ↔ (1 ≤ dist ∧ dist ≤ 9) ∧ 1 ≤ throttle := by
  have hbound : (Config.withChannels a b p n).failsafeCm = 10 := rfl
  rw [failsafe_iff, hbound]
  omega

/-- The clamp keeps the sign, and of the throttle the failsafe sees the sign alone (42_drive_failsafe.md R162). -/
theorem failsafe_clamp {c : Config} (h : 1 ≤ c.cmdLimit) (dist : Nat) (throttle : Int) :
    failsafe c dist (clamp throttle (-c.cmdLimit) c.cmdLimit) = failsafe c dist throttle := by
  rw [Bool.eq_iff_iff, failsafe_iff, failsafe_iff, clamp_pos_iff h]

theorem effectiveThrottle_of_failsafe {c : Config} {dist : Nat} {throttle : Int} (h : failsafe c dist throttle = true) :
    effectiveThrottle c dist throttle = 0 := if_pos h

theorem effectiveThrottle_eq (c : Config) (dist : Nat) (throttle : Int) :
    effectiveThrottle c dist throttle =
      if 0 < dist ∧ dist < c.failsafeCm ∧ 0 < throttle then 0 else throttle :=
  if_congr failsafe_iff rfl rfl

/-- Settles O38, from the predicate's three conjuncts: the clamp leaves the third as it is. -/
theorem failsafeHoldsBelowTenCentimetresForward : Obligations.FailsafeHoldsBelowTenCentimetresForward :=
  ⟨fun _ _ _ => failsafe_iff, fun _ _ _ _ _ _ => failsafe_withChannels_iff,
    fun _ dist throttle h => failsafe_clamp h dist throttle, effectiveThrottle_eq⟩

/-! ### DRIVE as SET_THROTTLE and SET_STEER -/

/-- A list of operations that is not empty is performed or refused as a whole: no operation changes the configuration. -/
theorem execAll_cons_eq_perform (i : Instr) (is : List Instr) (s : State) :
    execAll (i :: is) s = s.perform ((i :: is).foldl (fun u j => effect j u) s) := by
  by_cases hwf : s.cfg.WellFormed
  · rw [execAll_of_wellFormed hwf, State.perform_of_wellFormed hwf]
  · rw [execAll, exec_eq_perform, State.perform_of_illFormed hwf, State.perform_of_illFormed hwf]

/-- The writes of SET_THROTTLE leave the configuration, so SET_STEER goes by the one DRIVE read. -/
theorem effect_drive {s : State} {throttle throttle' : Operand}
    (h : signedValue throttle' = effectiveThrottle s.cfg s.distanceCm (signedValue throttle)) (steer : Operand) :
    effect (.drive throttle steer) s = effect (.setSteer steer) (effect (.setThrottle throttle') s) := by
  simp only [effect, driveWrites, State.emit_append, State.emit_cfg, h]

theorem length_driveWrites (c : Config) (dist : Nat) (throttle steer : Int) :
    (driveWrites c dist throttle steer).length = 16 := by
  rw [driveWrites, List.length_append, length_throttleWrites, length_steerWrites]

/-- DRIVE's order of the channels and R8's order of them name the same four. -/
theorem driveChannels_perm (c : Config) :
    [c.chDirPos, c.chDirNeg, c.chPwm, c.chSteer].Perm [c.chSteer, c.chPwm, c.chDirPos, c.chDirNeg] :=
  List.perm_append_comm.trans (.append_right [c.chDirPos, c.chDirNeg] (.swap ..))

/-- Settles O39: the effect of DRIVE is that of the two operations, and its writes are to the configured channels. -/
theorem driveIsThrottleThenSteer : Obligations.DriveIsThrottleThenSteer := by
  refine ⟨fun c throttle steer => decode_of_encode_eq rfl, ?_, ?_, ?_⟩
  · intro s throttle steer
    have heffective : signedValue (if 0 < s.distanceCm ∧ s.distanceCm < s.cfg.failsafeCm ∧ 0 < throttle.toInt then 0
        else throttle) = effectiveThrottle s.cfg s.distanceCm (signedValue throttle) := by
      rw [effectiveThrottle_eq]
      exact apply_ite signedValue _ _ _
    rw [exec_eq_perform, effect_drive heffective, execAll_cons_eq_perform]
    simp only [List.foldl_cons, List.foldl_nil]
  · intro s throttle steer hwf
    have hbus : (effect (.drive throttle steer) s).bus.length = s.bus.length + 16 := by
      rw [effect_bus, State.emit_bus_length, opWrites, length_driveWrites]
    refine ⟨_, exec_of_wellFormed hwf _, hbus, ⟨effect_sameRanging rfl s, effect_modeCache (by simp) s⟩,
      effect_samePorts (by simp) s, fun r hr => ?_⟩
    have hother : ∀ w ∈ opWrites (.drive throttle steer) s, w.reg ≠ r := by
      intro w hw hreg
      obtain ⟨ch, hch, k, hk, hchannel⟩ := writesChannels_opWrites (by simp) s w hw
      exact hr ch ((driveChannels_perm s.cfg).mem_iff.2 hch) k hk (hreg.symm.trans hchannel)
    exact effect_read_other hother
  · have hwf : { State.reset with distanceCm := 5 }.cfg.WellFormed := State.reset_wellFormed
    refine ⟨_, exec_of_wellFormed hwf _, ?_⟩
    rw [effect_trace]
    rfl

/-! ### What delivered writes leave in the controller's registers -/

/-- Where a list of delivered writes names each register once, every byte of it is in its register at the end. -/
theorem State.read_emit_of_mem {s : State} {m : Nat} {later : List BusOutcome}
    (hok : s.busOutcomes = List.replicate m .ok ++ later) {ws : List BusWrite} (hlen : ws.length ≤ m)
    (hnodup : (ws.map BusWrite.reg).Nodup) {w : BusWrite} (hw : w ∈ ws) :
    Memory.read (s.emit ws).controller w.reg = some w.val := by
  induction ws generalizing s m with
  | nil => cases hw
  | cons v ws ih =>
    cases m with
    | zero => cases hlen
    | succ m =>
      have hnext : s.nextOutcome = .ok := by rw [State.nextOutcome, hok]; rfl
      have htail : (s.busWrite v).busOutcomes = List.replicate m .ok ++ later := by
        rw [State.busWrite_busOutcomes, hok]
        rfl
      obtain ⟨hfresh, hnodup⟩ := List.nodup_cons.1 hnodup
      rw [State.emit_cons]
      obtain rfl | hw := List.mem_cons.1 hw
      · have hother : ∀ u ∈ ws, u.reg ≠ w.reg := fun u hu heq => hfresh (List.mem_map.2 ⟨u, hu, heq⟩)
        rw [State.emit_read_other _ _ _ hother, State.busWrite_controller, hnext]
        exact Memory.read_deliver_ok _ w
      · exact ih htail (Nat.le_of_succ_le_succ hlen) hnodup hw

/-- Each of a channel's four registers is named by the update, with its byte of the counts (30_encoding.md R81). -/
theorem exists_mem_writeChannel (c : Config) (ch : Nat) (on off : Count) {k : Nat} (hk : k < 4) :
    ∃ v, [lo8 on, hi8 on, lo8 off, hi8 off][k]? = some v ∧
      (⟨regAddr (regOnL c ch + k), v⟩ : BusWrite) ∈ writeChannel c ch on off := by
  interval_cases k <;> exact ⟨_, rfl, by simp [writeChannel, regWrite]⟩

/-- The four registers of each of several channels are pairwise different where R8's addresses fit. -/
theorem nodup_channelRegs {c : Config} (hfit : c.addressesFit) {chs : List Nat} (hnodup : chs.Nodup)
    (hlt : ∀ ch ∈ chs, ch < c.nCh) :
    ((chs ×ˢ [0, 1, 2, 3]).map fun x => regAddr (regOnL c x.1 + x.2)).Nodup := by
  have hslot : ∀ k ∈ [0, 1, 2, 3], k < 4 := by decide
  refine (hnodup.product (by decide)).map_on fun x hx y hy hreg => ?_
  obtain ⟨hx1, hx2⟩ := List.mem_product.1 hx
  obtain ⟨hy1, hy2⟩ := List.mem_product.1 hy
  obtain ⟨hch, hk⟩ := channelReg_inj hfit (hlt _ hx1) (hlt _ hy1) (hslot _ hx2) (hslot _ hy2) hreg
  exact Prod.ext hch hk

/-! ### DRIVE while the failsafe holds -/

section coasting
variable {c : Config} {dist : Nat} {throttle : Int} (hfail : failsafe c dist throttle = true) (steer : Int)
include hfail

/-- The coasting writes of SET_THROTTLE 0, then the steering channel (42_drive_failsafe.md R160). -/
theorem driveWrites_of_failsafe : driveWrites c dist throttle steer =
    writeChannelPair c c.chDirPos c.fullOff ++ writeChannelPair c c.chDirNeg c.fullOff ++
      writeChannel c c.chPwm 0 (count16 0) ++ writeChannel c c.chSteer 0 (count16 (steerPwm c steer)) := by
  have hclamp : clamp 0 (-c.cmdLimit) c.cmdLimit = 0 := by
    unfold clamp
    split_ifs <;> omega
  have hduty : throttleDuty c 0 = 0 := by
    rw [throttleDuty_eq]
    simp
  rw [driveWrites, effectiveThrottle_of_failsafe hfail, throttleWrites, hclamp, hduty, directionWrites_zero]
  rfl

/-- They name each register once, the channels being four different ones (00_scope.md R8). -/
theorem nodup_regs_driveWrites_of_failsafe (hwf : c.WellFormed) :
    ((driveWrites c dist throttle steer).map BusWrite.reg).Nodup := by
  obtain ⟨-, -, -, -, hchannels, hfit, -⟩ := hwf
  obtain ⟨hnodup, hlt⟩ := c.channelsDistinct_iff.1 hchannels
  have hperm := driveChannels_perm c
  rw [driveWrites_of_failsafe hfail]
  exact nodup_channelRegs hfit (hperm.nodup_iff.2 hnodup) fun ch hch => hlt ch (hperm.mem_iff.1 hch)

end coasting

/-- The registers of every channel such a DRIVE updates hold the bytes of that update, the writes being delivered. -/
theorem read_effect_drive_of_failsafe {s : State} {throttle steer : Operand} (hwf : s.cfg.WellFormed)
    {later : List BusOutcome} (hok : s.busOutcomes = List.replicate 16 .ok ++ later)
    (hfail : failsafe s.cfg s.distanceCm (signedValue throttle) = true) {ch : Nat} {on off : Count}
    (hupdate : writeChannel s.cfg ch on off ⊆ opWrites (.drive throttle steer) s) {k : Nat} (hk : k < 4) :
    Memory.read (effect (.drive throttle steer) s).controller (regAddr (regOnL s.cfg ch + k)) =
      [lo8 on, hi8 on, lo8 off, hi8 off][k]? := by
  obtain ⟨v, hbyte, hw⟩ := exists_mem_writeChannel s.cfg ch on off hk
  rw [effect_controller, hbyte]
  exact State.read_emit_of_mem hok (length_driveWrites ..).le (nodup_regs_driveWrites_of_failsafe hfail _ hwf)
    (hupdate hw)

/-- Settles O40: the failsafe holds, so both direction channels are updated to fully off and the duty to 0. -/
theorem failsafeLeavesTheMotorCoasting : Obligations.FailsafeLeavesTheMotorCoasting := by
  intro s t throttle steer a b p n later hbound hcfg hok hnear hfar hforward hexec holds
  obtain ⟨hwf, rfl⟩ := exec_eq_next.1 hexec
  have hfail : failsafe s.cfg s.distanceCm (signedValue throttle) = true := by
    rw [hcfg]
    exact failsafe_withChannels_iff.2 ⟨⟨hnear, hfar⟩, hforward⟩
  have hwrites : opWrites (.drive throttle steer) s =
      writeChannel s.cfg p (count16 0) (count16 4096) ++ writeChannel s.cfg n (count16 0) (count16 4096) ++
        writeChannel s.cfg b 0 (count16 0) ++ steerWrites s.cfg (signedValue steer) := by
    rw [opWrites, driveWrites_of_failsafe hfail, hcfg]
    rfl
  have hholds {ch : Nat} {on off : Count} {bytes : List Byte} (hbytes : [lo8 on, hi8 on, lo8 off, hi8 off] = bytes)
      (hupdate : writeChannel s.cfg ch on off ⊆ opWrites (.drive throttle steer) s) : holds ch bytes := by
    intro k hk
    have hreg : regAddr (regOnL s.cfg ch + k) = BitVec.ofNat 8 (6 + 4 * ch + k) := by rw [hcfg]; rfl
    rw [← hreg, ← hbytes]
    exact read_effect_drive_of_failsafe hwf hok hfail hupdate hk
  refine ⟨hholds (on := count16 0) (off := count16 4096) (by decide) fun w hw => ?_,
    hholds (on := count16 0) (off := count16 4096) (by decide) fun w hw => ?_,
    hholds (on := 0) (off := count16 0) (by decide) fun w hw => ?_⟩ <;>
      simp only [hwrites, List.mem_append, hw, true_or, or_true]

end Sys2Proof.Machine
end

section
/-! What a step answers, said by the configuration and the oldest event alone (60_exceptions.md R202, R203): a change of the
state, or a reason of refusal. And what a turn makes of a refusal. -/

namespace Sys2Proof.Machine

/-! ### A word: the operation it stands for, or why it is refused -/

/-- The operation a word stands for, or the first ground on which it is refused: the configuration comes before the word
(60_exceptions.md R203, log 7). -/
def wordVerdict (c : Config) (w : OpWord) : Except Refusal Instr :=
  if c.WellFormed then (decode c w).mapError .illegalWord else .error .illFormedConfig

section wordVerdict
variable {c : Config} {w : OpWord}

theorem wordVerdict_of_wellFormed (h : c.WellFormed) : wordVerdict c w = (decode c w).mapError .illegalWord := if_pos h

theorem wordVerdict_of_illFormed (h : ¬ c.WellFormed) : wordVerdict c w = .error .illFormedConfig := if_neg h

theorem wordVerdict_of_decode_error {r : IllegalReason} (h : c.WellFormed) (hdec : decode c w = .error r) :
    wordVerdict c w = .error (.illegalWord r) := by
  rw [wordVerdict_of_wellFormed h, hdec]
  rfl

theorem exists_wordVerdict_eq_error (h : ¬ c.WellFormed ∨ ∃ r, decode c w = .error r) :
    ∃ r, wordVerdict c w = .error r := by
  by_cases hwf : c.WellFormed
  · obtain ⟨r, hdec⟩ := h.resolve_left (not_not_intro hwf)
    exact ⟨_, wordVerdict_of_decode_error hwf hdec⟩
  · exact ⟨_, wordVerdict_of_illFormed hwf⟩

end wordVerdict

/-! ### An event: the change it makes, or why it is refused -/

/-- What an operation with `rst` after its write number `last` makes of a state (70_reset_and_hazards.md R231). -/
def cutEffect (i : Instr) (last : Nat) (s : State) : State :=
  if last + 1 < (opWrites i s).length then (s.emit ((opWrites i s).take (last + 1))).blockReset
  else (effect i s).blockReset

/-- What the oldest of the presented events does to a state, or why it is refused. -/
def eventVerdict (c : Config) : List PortEvent → Except Refusal (State → State)
  | [] => .ok id
  | .op _ w :: _ => (wordVerdict c w).map effect
  | .opCutByRst _ w last :: _ => (wordVerdict c w).map fun i => cutEffect i last
  | .rst :: _ => .ok State.blockReset

/-- The answer that a verdict gives in a state. -/
def answerOf (s : State) : Except Refusal (State → State) → Answer
  | .ok f => .next (f s)
  | .error r => .refused r

theorem exists_of_map_wordVerdict_eq_ok {c : Config} {w : OpWord} {g : Instr → State → State} {f : State → State}
    (h : (wordVerdict c w).map g = .ok f) : ∃ i, f = g i := by
  cases hw : wordVerdict c w with
  | error r => rw [hw] at h; cases h
  | ok i => rw [hw] at h; exact ⟨i, (Except.ok.inj h).symm⟩

/-- The change of an event that is not refused is a wait, a reset, or an operation, whole or cut. -/
theorem eventVerdict_eq_ok {c : Config} {q : List PortEvent} {f : State → State} (h : eventVerdict c q = .ok f) :
    f = id ∨ f = State.blockReset ∨ (∃ i, f = effect i) ∨ ∃ i last, f = cutEffect i last := by
  rcases q with _ | ⟨⟨_, w⟩ | ⟨_, w, last⟩ | _, rest⟩
  · exact .inl (Except.ok.inj h).symm
  · exact .inr (.inr (.inl (exists_of_map_wordVerdict_eq_ok h)))
  · obtain ⟨i, hf⟩ := exists_of_map_wordVerdict_eq_ok h
    exact .inr (.inr (.inr ⟨i, last, hf⟩))
  · exact .inr (.inl (Except.ok.inj h).symm)

section answers
variable (s : State)

theorem performCut_eq_perform (i : Instr) (last : Nat) : performCut i last s = s.perform (cutEffect i last s) := by
  unfold performCut cutEffect
  split_ifs
  · rfl
  · rw [exec_eq_perform]
    unfold State.perform
    split_ifs <;> rfl

theorem performWord_eq_answerOf (w : OpWord) : performWord w s = answerOf s ((wordVerdict s.cfg w).map effect) := by
  by_cases hwf : s.cfg.WellFormed
  · rw [performWord, if_pos hwf, wordVerdict_of_wellFormed hwf]
    cases decode s.cfg w with
    | error r => rfl
    | ok i => exact exec_of_wellFormed hwf i
  · rw [performWord, if_neg hwf, wordVerdict_of_illFormed hwf]
    rfl

theorem performCutWord_eq_answerOf (w : OpWord) (last : Nat) :
    performCutWord w last s = answerOf s ((wordVerdict s.cfg w).map fun i => cutEffect i last) := by
  by_cases hwf : s.cfg.WellFormed
  · rw [performCutWord, if_pos hwf, wordVerdict_of_wellFormed hwf]
    cases decode s.cfg w with
    | error r => rfl
    | ok i => exact (performCut_eq_perform s i last).trans (State.perform_of_wellFormed hwf _)
  · rw [performCutWord, if_neg hwf, wordVerdict_of_illFormed hwf]
    rfl

/-- A step, said once: the configuration and the oldest event decide what it answers, on the state whose port no longer holds
that event. -/
theorem step_eq_answerOf : step s = answerOf (s.withQueue s.opQueue.tail) (eventVerdict s.cfg s.opQueue) := by
  rcases hq : s.opQueue with _ | ⟨⟨_, w⟩ | ⟨_, w, last⟩ | _, rest⟩
  · have hwait : s.withQueue [] = s := hq ▸ rfl
    rw [step_idle hq]
    exact congrArg _ hwait.symm
  · rw [step_op hq]
    exact performWord_eq_answerOf (s.withQueue rest) w
  · rw [step_opCutByRst hq]
    exact performCutWord_eq_answerOf (s.withQueue rest) w last
  · rw [step_rst hq]
    rfl

end answers

/-! ### A turn -/

section turn
variable {s : State}

theorem turn_of_step_next {t : State} (h : step s = .next t) : turn s = t := by
  unfold turn
  rw [h]

theorem turn_of_step_refused {r : Refusal} (h : step s = .refused r) : turn s = s.markRefused := by
  unfold turn
  rw [h]

theorem step_of_eventVerdict_ok {f : State → State} (h : eventVerdict s.cfg s.opQueue = .ok f) :
    step s = .next (f (s.withQueue s.opQueue.tail)) := by
  rw [step_eq_answerOf, h]
  rfl

theorem step_of_eventVerdict_error {r : Refusal} (h : eventVerdict s.cfg s.opQueue = .error r) :
    step s = .refused r := by
  rw [step_eq_answerOf, h]
  rfl

/-- A word whose verdict is a refusal is refused with that reason. -/
theorem step_op_of_wordVerdict_error {by_ : Issuer} {w : OpWord} {rest : List PortEvent} {r : Refusal}
    (hq : s.opQueue = .op by_ w :: rest) (hw : wordVerdict s.cfg w = .error r) : step s = .refused r := by
  apply step_of_eventVerdict_error
  rw [hq, eventVerdict, hw]
  rfl

/-- So is a word that `rst` was to cut. -/
theorem step_opCutByRst_of_wordVerdict_error {by_ : Issuer} {w : OpWord} {last : Nat} {rest : List PortEvent}
    {r : Refusal} (hq : s.opQueue = .opCutByRst by_ w last :: rest) (hw : wordVerdict s.cfg w = .error r) :
    step s = .refused r := by
  apply step_of_eventVerdict_error
  rw [hq, eventVerdict, hw]
  rfl

end turn

/-! ### Completion and refusal -/

/-- Settles O9: under a well-formed configuration an operation answers its effect, and there is no fault to answer. -/
theorem everyOperationCompletes : Obligations.EveryOperationCompletes :=
  ⟨fun i _ hwf => ⟨_, exec_of_wellFormed hwf i⟩, fun _ f => nomatch f⟩

/-- Settles O10: the word's verdict decides the refusal, and the turn marks the state. -/
theorem refusedWordsChangeNothingButTheMark : Obligations.RefusedWordsChangeNothingButTheMark := by
  intro s by_ w rest hq
  refine ⟨fun hwf => ?_, fun r hwf hdec => ?_, fun r hstep => ?_⟩
  · exact step_op_of_wordVerdict_error hq (wordVerdict_of_illFormed hwf)
  · exact step_op_of_wordVerdict_error hq (wordVerdict_of_decode_error hwf hdec)
  · rw [turn_of_step_refused hstep, State.markRefused, hq]
    rfl

/-- Settles O53: the marked state has the `rst` first at its ports, and the turn after it takes that `rst`. -/
theorem refusedWordKeepsItsReset : Obligations.RefusedWordKeepsItsReset := by
  intro s by_ w last rest hq hrefused
  obtain ⟨r, hw⟩ := exists_wordVerdict_eq_error hrefused
  have hstep : step s = .refused r := step_opCutByRst_of_wordVerdict_error hq hw
  have hturn : turn s = { s with opQueue := .rst :: rest, refusedMark := true } := by
    rw [turn_of_step_refused hstep, State.markRefused, hq]
    rfl
  have htwo : turns 2 s = turn (turn s) := rfl
  refine ⟨⟨r, hstep⟩, hturn, ?_⟩
  rw [htwo, hturn]
  exact turn_of_step_next (step_rst rfl)

/-! ### The mark over a run -/

/-- A performed step keeps the mark and a refused one sets it. -/
theorem turn_refusedMark_eq_false {s : State} :
    (turn s).refusedMark = false ↔ s.refusedMark = false ∧ ∃ t, step s = .next t := by
  obtain ⟨t, hstep, hturn⟩ | ⟨r, hstep, hturn⟩ := turn_cases s
  · have hmark : t.refusedMark = s.refusedMark := (step_continues hstep).refusedMark
    simp [hturn, hstep, hmark]
  · simp [hturn, hstep]

/-- A run ends with a clear mark where it starts with one and no step of it is refused. -/
theorem turns_refusedMark_eq_false {n : Nat} {s : State} :
    (turns n s).refusedMark = false ↔ s.refusedMark = false ∧ ∀ k < n, ∃ t, step (turns k s) = .next t := by
  induction n generalizing s with
  | zero => simp [turns]
  | succ n ih =>
    rw [turns, ih, turn_refusedMark_eq_false, Nat.forall_lt_succ_left, and_assoc]
    rfl

/-- Settles O11: a run that ends with a clear mark has started with one. -/
theorem markTellsWhetherAWordWasRefused : Obligations.MarkTellsWhetherAWordWasRefused := by
  intro n s
  refine ⟨fun hset => ?_, fun hclear => ?_⟩
  · by_contra hend
    obtain ⟨hclear, -⟩ := turns_refusedMark_eq_false.1 (Bool.eq_false_of_not_eq_true hend)
    exact Bool.false_ne_true (hclear.symm.trans hset)
  · exact turns_refusedMark_eq_false.trans (and_iff_right hclear)

end Sys2Proof.Machine
end

section
/-! The bus outcomes and the controller (60_exceptions.md R206; 20_memory.md R52, R62): what the outcomes decide is which writes
reach the controller's registers, and nothing else. -/

namespace Sys2Proof.Machine

open Sys2Proof.Safety

/-! ### The controller's registers hold what was delivered -/

theorem State.emit_controllerHoldsDelivered {s : State} (h : controllerHoldsDelivered s) (ws : List BusWrite) :
    controllerHoldsDelivered (s.emit ws) := by
  obtain ⟨ts, hbus, -, hcontroller⟩ := s.emit_controller ws
  rw [controllerHoldsDelivered, hcontroller, hbus, List.foldl_append, ← h]

theorem effect_controllerHoldsDelivered {s : State} (h : controllerHoldsDelivered s) (i : Instr) :
    controllerHoldsDelivered (effect i s) := by
  rw [controllerHoldsDelivered, effect_controller, effect_bus]
  exact State.emit_controllerHoldsDelivered h _

/-- Settles O48: the controller's registers and the record of the writes move only together, write by write. -/
theorem stepKeepsControllerHoldsDelivered : Obligations.StepKeepsControllerHoldsDelivered := by
  intro s t h hstep
  obtain ⟨-, rfl⟩ | ⟨_, -, rfl⟩ | ⟨_, _, rest, i, -, -, -, rfl⟩ |
      ⟨_, _, _, rest, i, -, -, -, ⟨-, rfl⟩ | ⟨-, rfl⟩⟩ := performEvent_eq_next hstep
  · exact h
  · exact h
  · exact effect_controllerHoldsDelivered (s := s.withQueue rest) h i
  · exact State.emit_controllerHoldsDelivered (s := s.withQueue rest) h _
  · exact effect_controllerHoldsDelivered (s := s.withQueue rest) h i

/-! ### Two states that differ in the bus outcomes -/

section related
variable {s s' : State} (h : sameUpToBusOutcomes s s')
include h

theorem State.withQueue_sameUpToBusOutcomes (q : List PortEvent) :
    sameUpToBusOutcomes (s.withQueue q) (s'.withQueue q) := by
  obtain ⟨hblock, ⟨hcfg, -, hresults, hmark⟩, htrace⟩ := h
  exact ⟨hblock, ⟨hcfg, rfl, hresults, hmark⟩, htrace⟩

theorem State.blockReset_sameUpToBusOutcomes : sameUpToBusOutcomes s.blockReset s'.blockReset := by
  obtain ⟨-, hports, htrace⟩ := h
  exact ⟨⟨State.blockReset_sameRanging s s', rfl⟩, hports, htrace⟩

theorem State.markRefused_sameUpToBusOutcomes : sameUpToBusOutcomes s.markRefused s'.markRefused := by
  obtain ⟨hblock, ⟨hcfg, hqueue, hresults, -⟩, htrace⟩ := h
  exact ⟨hblock, ⟨hcfg, congrArg eventsAfterRefusal hqueue, hresults, rfl⟩, htrace⟩

theorem State.emit_sameUpToBusOutcomes (ws : List BusWrite) : sameUpToBusOutcomes (s.emit ws) (s'.emit ws) := by
  simpa [sameUpToBusOutcomes, sameBlock, sameRanging, samePorts] using h

theorem opWrites_of_sameUpToBusOutcomes (i : Instr) : opWrites i s' = opWrites i s := by
  obtain ⟨⟨⟨-, -, -, hdistance⟩, -⟩, ⟨hcfg, -⟩, -⟩ := h
  exact opWrites_congr hcfg hdistance i

/-- No operation reads what the bus outcomes decide (60_exceptions.md R206). -/
theorem effect_sameUpToBusOutcomes (i : Instr) : sameUpToBusOutcomes (effect i s) (effect i s') := by
  obtain ⟨⟨hranging, hmode⟩, ⟨hcfg, hqueue, hresults, hmark⟩, htrace⟩ := id h
  refine ⟨⟨effect_sameRanging_of_sameRanging hranging hcfg i, ?mode⟩, ⟨?cfg, ?queue, ?results, ?mark⟩, ?trace⟩
  case mode =>
    cases i with
    | actInit => exact congrArg modeAwake hcfg
    | echoCapture | distRead | setSteer | setThrottle | drive => simpa [effect] using hmode
  case cfg => rw [effect_cfg, effect_cfg, hcfg]
  case queue => rw [effect_opQueue, effect_opQueue, hqueue]
  case results =>
    cases i with
    | distRead =>
      obtain ⟨-, -, -, hdistance⟩ := hranging
      exact congrArg₂ (fun rs d => rs ++ [d]) hresults hdistance
    | echoCapture | actInit | setSteer | setThrottle | drive => simpa [effect] using hresults
  case mark => rw [effect_refusedMark, effect_refusedMark, hmark]
  case trace => rw [effect_trace, effect_trace, htrace, opWrites_of_sameUpToBusOutcomes h]

theorem cutEffect_sameUpToBusOutcomes (i : Instr) (last : Nat) :
    sameUpToBusOutcomes (cutEffect i last s) (cutEffect i last s') := by
  unfold cutEffect
  rw [opWrites_of_sameUpToBusOutcomes h]
  split_ifs
  · exact State.blockReset_sameUpToBusOutcomes (State.emit_sameUpToBusOutcomes h _)
  · exact State.blockReset_sameUpToBusOutcomes (effect_sameUpToBusOutcomes h i)

/-- The change an event makes keeps two such states alike. -/
theorem sameUpToBusOutcomes_of_eventVerdict_ok {c : Config} {q : List PortEvent} {f : State → State}
    (hf : eventVerdict c q = .ok f) : sameUpToBusOutcomes (f s) (f s') := by
  obtain rfl | rfl | ⟨i, rfl⟩ | ⟨i, last, rfl⟩ := eventVerdict_eq_ok hf
  · exact h
  · exact State.blockReset_sameUpToBusOutcomes h
  · exact effect_sameUpToBusOutcomes h i
  · exact cutEffect_sameUpToBusOutcomes h i last

/-- Both turns get the same verdict, and each of its outcomes keeps the states alike. -/
theorem turn_sameUpToBusOutcomes : sameUpToBusOutcomes (turn s) (turn s') := by
  obtain ⟨-, ⟨hcfg, hqueue, -⟩, -⟩ := id h
  have hverdict : eventVerdict s'.cfg s'.opQueue = eventVerdict s.cfg s.opQueue := by rw [hcfg, hqueue]
  cases hs : eventVerdict s.cfg s.opQueue with
  | ok f =>
    rw [turn_of_step_next (step_of_eventVerdict_ok hs),
      turn_of_step_next (step_of_eventVerdict_ok (hverdict.trans hs)), hqueue]
    exact sameUpToBusOutcomes_of_eventVerdict_ok (State.withQueue_sameUpToBusOutcomes h _) hs
  | error r =>
    rw [turn_of_step_refused (step_of_eventVerdict_error hs),
      turn_of_step_refused (step_of_eventVerdict_error (hverdict.trans hs))]
    exact State.markRefused_sameUpToBusOutcomes h

end related

/-- Settles O46, by induction on the number of turns, for every two such states at once. -/
theorem runsAreBlindToBusOutcomes : Obligations.RunsAreBlindToBusOutcomes := by
  intro n
  induction n with
  | zero => exact fun _ _ h => h
  | succ n ih => exact fun s t h => ih (turn s) (turn t) (turn_sameUpToBusOutcomes h)

end Sys2Proof.Machine
end

section
/-! The writes an operation makes, counted (70_reset_and_hazards.md R245), and what `rst` does to the block and to an operation
it cuts (R230, R231). -/

namespace Sys2Proof.Machine

/-! ### The writes of each operation -/

/-- The writes of each row of the operation map (41_actuator.md R124, R126, R128; 42_drive_failsafe.md R160). -/
def writeCount : OpName → Nat
  | .echoCapture => 0
  | .distRead => 0
  | .actInit => 11
  | .setSteer => 4
  | .setThrottle => 12
  | .drive => 16

theorem length_opWrites (i : Instr) (s : State) : (opWrites i s).length = writeCount i.name := by
  cases i with
  | echoCapture | distRead | actInit => rfl
  | setSteer => exact length_steerWrites ..
  | setThrottle => exact length_throttleWrites ..
  | drive => exact length_driveWrites ..

/-- The counter of draws moves by the writes alone (60_exceptions.md R206, log 5). -/
theorem effect_draws (i : Instr) (s : State) : (effect i s).draws = (s.emit (opWrites i s)).draws := by
  cases i with
  | echoCapture tick => exact State.capture_draws s tick.toNat
  | distRead | actInit | setSteer | setThrottle | drive => rfl

/-- So do the outcomes still listed. -/
theorem effect_busOutcomes (i : Instr) (s : State) :
    (effect i s).busOutcomes = (s.emit (opWrites i s)).busOutcomes := by
  cases i with
  | echoCapture tick => exact State.capture_busOutcomes s tick.toNat
  | distRead | actInit | setSteer | setThrottle | drive => rfl

/-- Settles O45: an operation moves the record, the counter and the list as its writes do, and these are counted. -/
theorem writesPerOperation : Obligations.WritesPerOperation := by
  intro i s t hexec k
  obtain ⟨-, rfl⟩ := exec_eq_next.1 hexec
  have hcount : (opWrites i s).length = k := length_opWrites i s
  rw [effect_bus, effect_draws, effect_busOutcomes, State.emit_bus_length, State.emit_draws, State.emit_busOutcomes,
    hcount]
  exact ⟨rfl, rfl, rfl⟩

/-! ### `rst` between operations -/

/-- Settles O14: the step's next state is a `blockReset`, and power-on's state is one too. -/
theorem rstResetsTheBlockAlone : Obligations.RstResetsTheBlockAlone := by
  intro s rest hq
  exact ⟨_, step_rst hq, rfl, State.blockReset_edgeSel _, rfl, rfl, rfl, rfl, rfl, rfl, rfl, rfl, rfl, rfl, rfl, rfl,
    ⟨State.blockReset_sameRanging State.reset _, rfl⟩, rfl⟩

/-! ### `rst` inside an operation -/

theorem step_opCutByRst_of_decode_ok {s : State} {by_ : Issuer} {w : OpWord} {last : Nat} {rest : List PortEvent}
    {i : Instr} (hq : s.opQueue = .opCutByRst by_ w last :: rest) (hwf : s.cfg.WellFormed)
    (hdec : decode s.cfg w = .ok i) : step s = .next (cutEffect i last (s.withQueue rest)) := by
  have hcut : performCutWord w last (s.withQueue rest) = performCut i last (s.withQueue rest) := by
    unfold performCutWord
    rw [State.withQueue_cfg, if_pos hwf, hdec]
  rw [step_opCutByRst hq]
  exact hcut.trans ((performCut_eq_perform ..).trans (State.perform_of_wellFormed (s := s.withQueue rest) hwf _))

section cut
variable (i : Instr) (last : Nat) (s : State)

/-- Cut or whole, the operation ends in the block's reset. -/
theorem exists_cutEffect_eq_blockReset : ∃ v : State, cutEffect i last s = v.blockReset := by
  unfold cutEffect
  split_ifs
  · exact ⟨_, rfl⟩
  · exact ⟨_, rfl⟩

/-- A field that reset leaves, and that the operation moves by its writes alone, is moved by the writes up to the cut. -/
theorem cutEffect_field {α : Type} (f : State → α) (hreset : ∀ v : State, f v.blockReset = f v)
    (heffect : f (effect i s) = f (s.emit (opWrites i s))) :
    f (cutEffect i last s) = f (s.emit ((opWrites i s).take (last + 1))) := by
  unfold cutEffect
  split_ifs with hcut
  · exact hreset _
  · rw [hreset, heffect, List.take_of_length_le (Nat.le_of_not_lt hcut)]

theorem cutEffect_bus : (cutEffect i last s).bus = (s.emit ((opWrites i s).take (last + 1))).bus :=
  cutEffect_field i last s State.bus (fun _ => rfl) (effect_bus i s)

theorem cutEffect_controller :
    (cutEffect i last s).controller = (s.emit ((opWrites i s).take (last + 1))).controller :=
  cutEffect_field i last s State.controller (fun _ => rfl) (effect_controller i s)

theorem cutEffect_trace : (cutEffect i last s).trace = s.trace ++ (opWrites i s).take (last + 1) :=
  (congrArg (List.map BusTxn.write) (cutEffect_bus i last s)).trans (State.trace_emit s _)

@[simp] theorem cutEffect_cfg : (cutEffect i last s).cfg = s.cfg := by
  unfold cutEffect
  split_ifs <;> simp

@[simp] theorem cutEffect_opQueue : (cutEffect i last s).opQueue = s.opQueue := by
  unfold cutEffect
  split_ifs <;> simp

@[simp] theorem cutEffect_refusedMark : (cutEffect i last s).refusedMark = s.refusedMark := by
  unfold cutEffect
  split_ifs <;> simp

/-- Only DIST_READ returns a result, and it makes no write to be cut after (70_reset_and_hazards.md R231). -/
theorem cutEffect_results : (cutEffect i last s).results = (effect i s).results := by
  unfold cutEffect
  split_ifs with hcut
  · have hi : i ≠ .distRead := by
      rintro rfl
      exact Nat.not_lt_zero _ hcut
    obtain ⟨-, -, hresults, -⟩ := effect_samePorts hi s
    rw [State.blockReset_results, State.emit_results, hresults]
  · rfl

end cut

/-- The first writes of a list make the first records of it, with the same outcomes (20_memory.md R62). -/
theorem State.bus_emit_take (s : State) (ws : List BusWrite) (k : Nat) :
    (s.emit (ws.take k)).bus = (s.emit ws).bus.take (s.bus.length + k) := by
  have hprefix : (s.emit (ws.take k)).bus <+: (s.emit ws).bus := by
    conv_rhs => rw [← List.take_append_drop k ws, State.emit_append]
    exact State.bus_prefix_emit ..
  conv_lhs => rw [List.prefix_iff_eq_take.1 hprefix]
  rw [List.take_eq_take_iff]
  simp only [State.emit_bus_length, List.length_take]
  omega

/-- Settles O15: the step's next state is the operation's `cutEffect`, and its writes are those of `opWrites` up to the
cut. -/
theorem rstCutsTheRemainingWrites : Obligations.RstCutsTheRemainingWrites := by
  intro s by_ w last rest i u hq hwf hdec hexec
  obtain ⟨-, hu⟩ := exec_eq_next.1 hexec
  obtain rfl : effect i (s.withQueue rest) = u := hu
  have hbus : (cutEffect i last (s.withQueue rest)).bus =
      (effect i (s.withQueue rest)).bus.take (s.bus.length + last + 1) := by
    rw [cutEffect_bus, effect_bus]
    exact State.bus_emit_take (s.withQueue rest) _ (last + 1)
  obtain ⟨v, hreset⟩ := exists_cutEffect_eq_blockReset i last (s.withQueue rest)
  refine ⟨_, opWrites i (s.withQueue rest), step_opCutByRst_of_decode_ok hq hwf hdec,
    effect_trace i (s.withQueue rest), cutEffect_trace i last (s.withQueue rest), hbus,
    cutEffect_controller i last (s.withQueue rest), ?_, ?_, ?_, ?_, ?_,
    cutEffect_opQueue i last (s.withQueue rest), cutEffect_results .., cutEffect_cfg i last (s.withQueue rest),
    cutEffect_refusedMark i last (s.withQueue rest)⟩ <;> rw [hreset]
  exacts [State.blockReset_phase v, State.blockReset_tRise v, State.blockReset_tFall v, State.blockReset_distanceCm v,
    State.blockReset_modeCache v]

end Sys2Proof.Machine
end

section
/-! A lost edge (70_reset_and_hazards.md R237): captures pair by their place in the order, so after an even number of them the
next two are one measurement, whatever edges they were (40_ranging.md R106, R107). -/

namespace Sys2Proof.Machine

open Sys2Proof.Safety

/-- The last two captures of an even number of them give the distance. -/
theorem exists_execAll_append_captures {s : State} {ops : List Instr} (hwf : s.cfg.WellFormed)
    (hphase : s.phase = .awaitingRise) (heven : (ops.filter isCapture).length % 2 = 0) (r f : Operand) :
    ∃ t, execAll (ops ++ [.echoCapture r, .echoCapture f]) s = .next t ∧
      t.distanceCm = ticksToCm s.cfg (elapsed s.cfg r.toNat f.toNat) := by
  refine ⟨_, execAll_of_wellFormed hwf _, ?_⟩
  have hops := execAll_of_wellFormed hwf ops
  have hrise := phaseIsTheParityOfTheCaptures ops s _ hops
  rw [if_pos heven, hphase] at hrise
  have hcfg : (ops.foldl (fun u i => effect i u) s).cfg = s.cfg :=
    execAll_keeps (P := fun v => v.cfg = s.cfg) (fun i _ v hv => (effect_cfg i v).trans hv) rfl hops
  rw [List.foldl_append, ← hcfg]
  exact congrArg State.distanceCm (State.capture_capture hrise r.toNat f.toNat)

/-- With the defaults, from power-on, in the form the examples of R237 have. -/
theorem exists_execAll_append_captures_reset {ops : List Instr} (heven : (ops.filter isCapture).length % 2 = 0)
    {r f : Operand} (hlt : r.toNat < f.toNat) (hfits : f.toNat ≤ 65535) :
    ∃ t, execAll (ops ++ [.echoCapture r, .echoCapture f]) State.reset = .next t ∧
      t.distanceCm = (f.toNat - r.toNat) / 58 := by
  obtain ⟨t, hall, hdistance⟩ := exists_execAll_append_captures State.reset_wellFormed rfl heven r f
  refine ⟨t, hall, ?_⟩
  rw [hdistance, elapsed_of_lt hlt]
  exact ticksToCm_withChannels 0 1 2 3 (by omega)

/-- Settles O25: 20000, 40000 - 20580 and 60000 - 40580 ticks, each pair of captures after an even number of them. -/
theorem lostEdgeExample : Obligations.LostEdgeExample :=
  ⟨exists_execAll_append_captures_reset (ops := []) rfl (by decide) (by decide),
    exists_execAll_append_captures_reset (ops := [.echoCapture 0, .echoCapture 20000]) rfl (by decide) (by decide),
    exists_execAll_append_captures_reset
      (ops := [.echoCapture 0, .echoCapture 20000, .echoCapture 20580, .echoCapture 40000]) rfl (by decide) (by decide)⟩

end Sys2Proof.Machine
end

section
/-! A torn channel update (70_reset_and_hazards.md R240): each register of an update takes its byte or keeps its old one, by the
outcome of its own write. -/

namespace Sys2Proof.Machine

open Sys2Proof.Safety

/-! ### One register of a list of writes -/

/-- In a list that names each register once, the outcome of a register's own write decides what it holds
(60_exceptions.md R206). -/
theorem State.read_emit_getElem {s : State} {ws : List BusWrite} (hnodup : (ws.map BusWrite.reg).Nodup) {n : Nat}
    {reg val : Byte} {o : BusOutcome} (hw : ws[n]? = some ⟨reg, val⟩) (ho : s.busOutcomes[n]? = some o) :
    Memory.read (s.emit ws).controller reg = if o = .ok then some val else Memory.read s.controller reg := by
  induction ws generalizing s n with
  | nil => cases hw
  | cons v ws ih =>
    obtain ⟨hfresh, hnodup⟩ := List.nodup_cons.1 hnodup
    rw [State.emit_cons]
    cases n with
    | zero =>
      obtain rfl : v = ⟨reg, val⟩ := Option.some.inj hw
      have hother : ∀ u ∈ ws, u.reg ≠ reg := fun u hu heq => hfresh (List.mem_map.2 ⟨u, hu, heq⟩)
      have hnext : s.nextOutcome = o := by
        obtain ⟨os, hos⟩ : ∃ os, s.busOutcomes = o :: os := by
          cases hs : s.busOutcomes with
          | nil => rw [hs] at ho; cases ho
          | cons o' os => rw [hs] at ho; exact ⟨os, congrArg (· :: os) (Option.some.inj ho)⟩
        rw [State.nextOutcome, hos]
      rw [State.emit_read_other _ _ _ hother, State.busWrite_controller, hnext]
      cases o with
      | ok => exact Memory.read_deliver_ok _ ⟨reg, val⟩
      | timeout => rfl
    | succ n =>
      have hmem : (⟨reg, val⟩ : BusWrite) ∈ ws := List.mem_of_getElem? hw
      have hne : reg ≠ v.reg := fun heq => hfresh (List.mem_map.2 ⟨_, hmem, heq⟩)
      have htail : (s.busWrite v).busOutcomes[n]? = some o := by
        rw [State.busWrite_busOutcomes, List.getElem?_tail]
        exact ho
      rw [ih hnodup hw htail, State.busWrite_controller, Memory.read_deliver_other _ v _ reg hne]

/-- A register that two lists of writes name, written by the first, holds the second's byte or still the first's. -/
theorem State.read_emit_emit_getElem {s : State} {ws vs : List BusWrite} (hws : (ws.map BusWrite.reg).Nodup)
    (hvs : (vs.map BusWrite.reg).Nodup) {m n : Nat} {reg old new : Byte} {o : BusOutcome}
    (hw : ws[m]? = some ⟨reg, old⟩) (hv : vs[n]? = some ⟨reg, new⟩) (hok : s.busOutcomes[m]? = some .ok)
    (ho : s.busOutcomes[ws.length + n]? = some o) :
    Memory.read ((s.emit ws).emit vs).controller reg = some (if o = .ok then new else old) := by
  have hsecond : (s.emit ws).busOutcomes[n]? = some o := by
    rw [State.emit_busOutcomes, List.getElem?_drop]
    exact ho
  rw [State.read_emit_getElem hvs hv hsecond, State.read_emit_getElem hws hw hok, if_pos rfl]
  exact (apply_ite some _ _ _).symm

/-! ### The SET operations -/

section wellFormed
variable {c : Config} (hwf : c.WellFormed)
include hwf

theorem nodup_regs_steerWrites (angle : Int) : ((steerWrites c angle).map BusWrite.reg).Nodup :=
  nodup_channelRegs (addressesFit_of_wellFormed hwf) (List.nodup_singleton c.chSteer) fun _ hch =>
    channel_lt_of_wellFormed hwf (List.mem_cons.2 (.inl (List.mem_singleton.1 hch)))

theorem nodup_regs_throttleWrites (speed : Int) : ((throttleWrites c speed).map BusWrite.reg).Nodup := by
  obtain ⟨-, -, -, -, ⟨-, -, -, hpwmPos, hpwmNeg, hposNeg, -, hpwm, hpos, hneg⟩, hfit, -⟩ := hwf
  have hregs {first second : Nat} (hne : first ≠ second) (hfirst : c.chPwm ≠ first) (hsecond : c.chPwm ≠ second)
      (hlt : first < c.nCh) (hlt' : second < c.nCh) :=
    nodup_channelRegs hfit (chs := [first, second, c.chPwm]) (by simp [hne, hfirst.symm, hsecond.symm])
      (by simp [hlt, hlt', hpwm])
  unfold throttleWrites directionWrites
  split_ifs
  · exact hregs hposNeg.symm hpwmNeg hpwmPos hneg hpos
  · exact hregs hposNeg hpwmPos hpwmNeg hpos hneg
  · exact hregs hposNeg hpwmPos hpwmNeg hpos hneg

end wellFormed

/-- Power-on, with the outcomes of the coming writes listed. -/
def State.resetWith (os : List BusOutcome) : State := { State.reset with busOutcomes := os }

theorem State.resetWith_wellFormed (os : List BusOutcome) : (State.resetWith os).cfg.WellFormed := State.reset_wellFormed

/-- From 430 to 520, each byte of the off count is the new or the old one by the outcome of its own write. -/
theorem exists_execAll_torn_steer (low high : BusOutcome) :
    ∃ t, execAll [.setSteer 0, .setSteer (BitVec.ofInt 32 (-100))]
        (State.resetWith (List.replicate 6 .ok ++ [low, high])) = .next t ∧
      Memory.read t.controller 0x08 = some (if low = .ok then 0x08 else 0xAE) ∧
      Memory.read t.controller 0x09 = some (if high = .ok then 0x02 else 0x01) := by
  have hcenter := nodup_regs_steerWrites State.reset_wellFormed 0
  have hleft := nodup_regs_steerWrites State.reset_wellFormed (-100)
  refine ⟨_, execAll_of_wellFormed (State.resetWith_wellFormed _) _, ?_, ?_⟩
  · exact State.read_emit_emit_getElem hcenter hleft (m := 2) (n := 2) (by decide) (by decide) rfl rfl
  · exact State.read_emit_emit_getElem hcenter hleft (m := 3) (n := 3) (by decide) (by decide) rfl rfl

/-- One byte on both direction channels' on-high registers, with the full-on flag set, drives the bridge both ways. -/
theorem not_bridgeSafe_of_read {s : State} {c : Config} (hcfg : s.cfg = c) {v : Byte} (hset : v.getLsbD 4 = true)
    (hpos : Memory.read s.controller (regAddr (regOnL c c.chDirPos + 1)) = some v)
    (hneg : Memory.read s.controller (regAddr (regOnL c c.chDirNeg + 1)) = some v) : ¬ bridgeSafe s := by
  subst hcfg
  have hflag {ch : Nat} (h : Memory.read s.controller (regAddr (regOnL s.cfg ch + 1)) = some v) :
      fullOnFlag s ch = true := by
    rw [fullOnFlag, State.deviceByte, h]
    exact hset
  exact not_not_intro ⟨hflag hpos, hflag hneg⟩

/-- From forward to reverse, the four writes that turn the forward channel off being lost, FULL_ON stays on it and reaches
the other. -/
theorem not_bridgeSafe_of_lost_fullOff {s : State} (hwf : s.cfg.WellFormed)
    (hon : (hi8 (count16 s.cfg.fullOn.on)).getLsbD 4 = true)
    (hos : s.busOutcomes = List.replicate 12 .ok ++ List.replicate 4 .timeout ++ List.replicate 8 .ok)
    {forward reverse : Operand} (hforward : 0 < signedValue forward) (hreverse : signedValue reverse < 0) :
    ¬ bridgeSafe (effect (.setThrottle reverse) (effect (.setThrottle forward) s)) := by
  have hlimit := cmdLimit_pos_of_wellFormed hwf
  have hnodup := nodup_regs_throttleWrites hwf
  have hlength := length_throttleWrites s.cfg (signedValue forward)
  simp only [effect, State.emit_cfg]
  refine not_bridgeSafe_of_read (c := s.cfg) (by simp only [State.emit_cfg]) hon ?_ ?_
  · refine State.read_emit_emit_getElem (hnodup _) (hnodup _) (m := 5) (n := 1) (new := hi8 (count16 s.cfg.fullOff.on))
      (o := .timeout) ?_ ?_ ?_ ?_
    · rw [throttleWrites_eq hlimit, directionWrites_of_pos hforward]; rfl
    · rw [throttleWrites_eq hlimit, directionWrites_of_neg hreverse]; rfl
    · rw [hos]; rfl
    · rw [hos, hlength]; rfl
  · refine State.read_emit_emit_getElem (hnodup _) (hnodup _) (m := 1) (n := 5) (old := hi8 (count16 s.cfg.fullOff.on))
      (o := .ok) ?_ ?_ ?_ ?_
    · rw [throttleWrites_eq hlimit, directionWrites_of_pos hforward]; rfl
    · rw [throttleWrites_eq hlimit, directionWrites_of_neg hreverse]; rfl
    · rw [hos]; rfl
    · rw [hos, hlength]; rfl

/-- Settles O42: the two torn steering counts, and the lost FULL_OFF from reset. -/
theorem tornChannelExamples : Obligations.TornChannelExamples :=
  ⟨exists_execAll_torn_steer .ok .timeout, exists_execAll_torn_steer .timeout .ok, _,
    execAll_of_wellFormed (State.resetWith_wellFormed _) _,
    not_bridgeSafe_of_lost_fullOff (State.resetWith_wellFormed _) (by decide) rfl (by decide) (by decide)⟩

end Sys2Proof.Machine
end
